-- ==== Sys2Proof/Word.lean ====
section
/-! DEFINITION. The data the codec block moves (spec 00 R9, R10 and 20 R48): bytes, byte strings, the 16-bit status word,
the 2-byte device address, the 11 named status flags, and the operand of RESP_FORMAT. -/

namespace Sys2Proof

/-- R10: a byte is an 8-bit word. -/
abbrev Byte := BitVec 8

/-- R10: a byte string is a finite sequence of bytes; the head is byte 0, the first byte on the wire (R46). -/
abbrev Bytes := List Byte

/-- R9, R47: the unsigned 16-bit status word; bit i has value 2^i. -/
abbrev Word16 := BitVec 16

/-- R7 (`ADDR_LEN`), R23: a device address, exactly 2 bytes; `first` is sent first. -/
structure Addr where
  first  : Byte
  second : Byte
  deriving DecidableEq, Repr

/-- The address as the 2-byte string that the rules compare and return. -/
def Addr.bytes (a : Addr) : Bytes := [a.first, a.second]

/-- R62 (`F`), R100: the 11 named status flags, in the order of their bits. -/
structure Flags where
  laserEnabled       : Bool := false
  laserActive        : Bool := false
  diodeExtTrigger    : Bool := false
  extInterlock       : Bool := false
  resonatorOverTemp  : Bool := false
  electricalOverTemp : Bool := false
  powerFailure       : Bool := false
  readyToEnable      : Bool := false
  readyToFire        : Bool := false
  lowPowerMode       : Bool := false
  highPowerMode      : Bool := false
  deriving DecidableEq, Repr

/-- R66, R160: the response kind `K` of a RESP_FORMAT request together with the one operand that kind reads. -/
inductive RespOperand where
  /-- `K` = 0, `OK`: reads nothing more. -/
  | ok
  /-- `K` = 1, `VALUE_TEXT`: reads `S`. -/
  | valueText (text : Bytes)
  /-- `K` = 2, `VALUE_U16`: reads `W`. -/
  | valueU16 (w : Word16)
  /-- `K` = 3, `ERROR`: reads `E`. -/
  | error (e : BitVec 4)
  deriving DecidableEq, Repr

end Sys2Proof
end

