-- ==== Sys2Proof/Config.lean ====
section
/-! DEFINITION. The implementation parameters of R7: what one build of the codec block fixes. A machine carries its
parameters as plain data (State.config), so a statement over all states holds for every choice of them. -/

namespace Sys2Proof

/-- R27: the class KW_TABLE gives a known keyword. A keyword with no row has class UNKNOWN (R75), which a lookup answers
as `none`. -/
inductive KwClass where
  /-- `ARG`: an action keyword that requires an argument. -/
  | arg
  /-- `ONLY`: an action-only keyword. -/
  | only
  /-- `QONLY`: a query-only keyword. -/
  | qonly
  deriving DecidableEq, Repr

/-- One row of KW_TABLE (R75): the keyword's exact bytes and its class. -/
structure KwRow where
  keyword : Bytes
  cls     : KwClass
  deriving DecidableEq, Repr

/-- R7: the parameters an implementation fixes, less the two the spec fixes for all (`SW_WIDTH` = 16 and `ADDR_LEN` = 2,
which are types here) and less `KW_TABLE`, which R27 and R28 list as a state element (State.kwTable). -/
structure Config where
  /-- `OPERAND_MAX`: the longest byte-string operand or result. -/
  operandMax : Nat
  /-- `RX_CAP`: the capacity of the frame assembler, terminator excluded. -/
  rxCap : Nat
  /-- `ADDR_RESET`: the value of CFG_ADDR after reset. -/
  addrReset : Addr
  /-- `WS`: the bytes the tokenizer treats as whitespace. -/
  ws : Bytes
  deriving DecidableEq, Repr

/-- R7: the stated defaults, 256, 64, "LA" and TAB, VT, FF, SPACE. -/
def Config.default : Config where
  operandMax := 256
  rxCap := 64
  addrReset := ⟨0x4C, 0x41⟩
  ws := [0x09, 0x0B, 0x0C, 0x20]

end Sys2Proof
end

