-- ==== Sys2Proof/Syntax.lean ====
section
/-! DEFINITION. The instructions: one constructor for each row of spec/opcode_table.json, in the table's order.
The 13 rows of format OP are the requests of R61, each with exactly the operand fields its operation reads (R60: an
operation ignores the fields it does not name). The 30 rows of format KW are the keywords of KW_TABLE (R75): such an
instruction is the wire command that is this keyword alone, the one-token action frame `;<CFG_ADDR>:<keyword>` CR that
95_test_vectors.md L1-8 lists for every row (notes/assumptions/2.md). -/

namespace Sys2Proof

/-- R61 and R75: what the block can be asked to do. -/
inductive Instr where
  /-- SW_ENCODE, OP 0x0 (R101): reads `F`. -/
  | swEncode (f : Flags)
  /-- SW_DECODE, OP 0x1 (R102): reads `W`. -/
  | swDecode (w : Word16)
  /-- CMD_ENCODE, OP 0x2 (R120): reads `A`, `KW`, `G`. -/
  | cmdEncode (a : Bytes) (kw : Bytes) (g : Option Bytes)
  /-- FRAME_PARSE, OP 0x3 (R122): reads `S`. -/
  | frameParse (text : Bytes)
  /-- RESP_FORMAT, OP 0x4 (R160): reads `K` and, by its value, `S`, `W` or `E`. -/
  | respFormat (k : RespOperand)
  /-- RESP_PARSE, OP 0x5 (R165): reads `S`. -/
  | respParse (text : Bytes)
  /-- ERR_DESC, OP 0x6 (R170): reads `E`. -/
  | errDesc (e : BitVec 4)
  /-- DEC_TO_U16, OP 0x7 (R175): reads `S`. -/
  | decToU16 (text : Bytes)
  /-- RX_PUSH, OP 0x8 (R130): reads `BYTE`. -/
  | rxPush (c : Byte)
  /-- RX_RESET, OP 0x9 (R131): reads nothing. -/
  | rxReset
  /-- CFG_SET_ADDR, OP 0xA (R191): reads `A`. -/
  | cfgSetAddr (a : Bytes)
  /-- CFG_GET_ADDR, OP 0xB (R192): reads nothing. -/
  | cfgGetAddr
  /-- RESERVED, OP 0xC to 0xF (R193): `op` is the selector; reads nothing. -/
  | reserved (op : BitVec 4)
  /-- KW BC (R75, class ARG). -/
  | kwBC
  /-- KW DC (R75, class ARG). -/
  | kwDC
  /-- KW DT (R75, class ARG). -/
  | kwDT
  /-- KW DW (R75, class ARG). -/
  | kwDW
  /-- KW EC (R75, class ARG). -/
  | kwEC
  /-- KW EM (R75, class ARG). -/
  | kwEM
  /-- KW EN (R75, class ARG). -/
  | kwEN
  /-- KW FL (R75, class ARG). -/
  | kwFL
  /-- KW PE (R75, class ARG). -/
  | kwPE
  /-- KW PM (R75, class ARG). -/
  | kwPM
  /-- KW RC (R75, class ARG). -/
  | kwRC
  /-- KW SV (R75, class ARG). -/
  | kwSV
  /-- KW RR (R75, class ARG). -/
  | kwRR
  /-- KW UC (R75, class ARG). -/
  | kwUC
  /-- KW RS (R75, class ONLY). -/
  | kwRS
  /-- KW BV (R75, class QONLY). -/
  | kwBV
  /-- KW FT (R75, class QONLY). -/
  | kwFT
  /-- KW FV (R75, class QONLY). -/
  | kwFV
  /-- KW ID (R75, class QONLY). -/
  | kwID
  /-- KW IM (R75, class QONLY). -/
  | kwIM
  /-- KW LS (R75, class QONLY). -/
  | kwLS
  /-- KW PE:MIN (R75, class QONLY). -/
  | kwPEMin
  /-- KW PE:MAX (R75, class QONLY). -/
  | kwPEMax
  /-- KW RR:MIN (R75, class QONLY). -/
  | kwRRMin
  /-- KW RR:MAX (R75, class QONLY). -/
  | kwRRMax
  /-- KW SC (R75, class QONLY). -/
  | kwSC
  /-- KW SS (R75, class QONLY). -/
  | kwSS
  /-- KW TR:MIN (R75, class QONLY). -/
  | kwTRMin
  /-- KW TR:MAX (R75, class QONLY). -/
  | kwTRMax
  /-- KW DC:MIN (R75, class QONLY). -/
  | kwDCMin
  deriving DecidableEq, Repr

end Sys2Proof
end

