-- ==== Sys2Proof/WellFormed.lean ====
section
/-! DEFINITION. Which instructions are well formed. Every operand width is its type (R48, R62), and R62 lets a byte string
have any length; the one check left is that a reserved request carries a reserved selector (R61, R193). -/

namespace Sys2Proof

/-- R61: the selectors with no operation are 0xC to 0xF. -/
def reservedSelector (op : BitVec 4) : Bool := decide (0xC ≤ op.toNat)

/-- The instruction is one the port can present. -/
def Instr.wellFormed : Instr → Bool
  | .swEncode _ => true
  | .swDecode _ => true
  | .cmdEncode _ _ _ => true
  | .frameParse _ => true
  | .respFormat _ => true
  | .respParse _ => true
  | .errDesc _ => true
  | .decToU16 _ => true
  | .rxPush _ => true
  | .rxReset => true
  | .cfgSetAddr _ => true
  | .cfgGetAddr => true
  | .reserved op => reservedSelector op
  | .kwBC => true
  | .kwDC => true
  | .kwDT => true
  | .kwDW => true
  | .kwEC => true
  | .kwEM => true
  | .kwEN => true
  | .kwFL => true
  | .kwPE => true
  | .kwPM => true
  | .kwRC => true
  | .kwSV => true
  | .kwRR => true
  | .kwUC => true
  | .kwRS => true
  | .kwBV => true
  | .kwFT => true
  | .kwFV => true
  | .kwID => true
  | .kwIM => true
  | .kwLS => true
  | .kwPEMin => true
  | .kwPEMax => true
  | .kwRRMin => true
  | .kwRRMax => true
  | .kwSC => true
  | .kwSS => true
  | .kwTRMin => true
  | .kwTRMax => true
  | .kwDCMin => true

end Sys2Proof
end

