-- ==== Sys2Proof/Decode.lean ====
section
/-! DEFINITION. The encodings: the request port's fields (R61, R62), the keyword bytes of KW_TABLE (R75), the decoder from
either to an instruction, and, after it, the encoder. The spec gives a request no byte layout beyond its 4-bit selector: a
request IS its fields, so the decoder reads fields (notes/assumptions/1.md). -/

namespace Sys2Proof

/-- R62: one request on the port. Every request carries all of these fields; the defaults are the zero or empty field. -/
structure Request where
  op   : BitVec 4
  w    : Word16 := 0
  f    : Flags := {}
  a    : Bytes := []
  kw   : Bytes := []
  g    : Option Bytes := none
  s    : Bytes := []
  k    : BitVec 2 := 0
  e    : BitVec 4 := 0
  byte : Byte := 0
  deriving DecidableEq, Repr

/-- The two things spec/opcode_table.json encodes: a request (format OP) and a keyword's bytes (format KW). -/
inductive Encoded where
  | request (r : Request)
  | keyword (token : Bytes)
  deriving DecidableEq, Repr

/-- Why the decoder turns bits away: the bytes are no row of KW_TABLE (R75: class UNKNOWN). No request is turned away,
since R193 gives even a reserved selector its response. -/
inductive DecodeError where
  | unknownKeyword (token : Bytes)
  deriving DecidableEq, Repr

/-- R66: the operand of RESP_FORMAT, picked by `K`; all four values are assigned. -/
def decodeRespOperand (r : Request) : RespOperand :=
  match r.k.toNat with
  | 0 => .ok
  | 1 => .valueText r.s
  | 2 => .valueU16 r.w
  | _ => .error r.e

/-- R60, R61: the selector names the operation, which takes the fields it reads. -/
def decodeRequest (r : Request) : Instr :=
  match r.op.toNat with
  | 0x0 => .swEncode r.f
  | 0x1 => .swDecode r.w
  | 0x2 => .cmdEncode r.a r.kw r.g
  | 0x3 => .frameParse r.s
  | 0x4 => .respFormat (decodeRespOperand r)
  | 0x5 => .respParse r.s
  | 0x6 => .errDesc r.e
  | 0x7 => .decToU16 r.s
  | 0x8 => .rxPush r.byte
  | 0x9 => .rxReset
  | 0xA => .cfgSetAddr r.a
  | 0xB => .cfgGetAddr
  | _   => .reserved r.op

/-- One KW row of the table: the keyword's bytes, first byte on the wire first, and the instruction they are. -/
structure KeywordWord where
  token : Bytes
  instr : Instr
  deriving DecidableEq, Repr

/-- The keywords of two characters, as the hex column of R75 writes them. -/
def twoByteKeywords : List KeywordWord :=
  [ ⟨[0x42, 0x43], .kwBC⟩
  , ⟨[0x44, 0x43], .kwDC⟩
  , ⟨[0x44, 0x54], .kwDT⟩
  , ⟨[0x44, 0x57], .kwDW⟩
  , ⟨[0x45, 0x43], .kwEC⟩
  , ⟨[0x45, 0x4D], .kwEM⟩
  , ⟨[0x45, 0x4E], .kwEN⟩
  , ⟨[0x46, 0x4C], .kwFL⟩
  , ⟨[0x50, 0x45], .kwPE⟩
  , ⟨[0x50, 0x4D], .kwPM⟩
  , ⟨[0x52, 0x43], .kwRC⟩
  , ⟨[0x53, 0x56], .kwSV⟩
  , ⟨[0x52, 0x52], .kwRR⟩
  , ⟨[0x55, 0x43], .kwUC⟩
  , ⟨[0x52, 0x53], .kwRS⟩
  , ⟨[0x42, 0x56], .kwBV⟩
  , ⟨[0x46, 0x54], .kwFT⟩
  , ⟨[0x46, 0x56], .kwFV⟩
  , ⟨[0x49, 0x44], .kwID⟩
  , ⟨[0x49, 0x4D], .kwIM⟩
  , ⟨[0x4C, 0x53], .kwLS⟩
  , ⟨[0x53, 0x43], .kwSC⟩
  , ⟨[0x53, 0x53], .kwSS⟩ ]

/-- The two-segment keywords of six characters, as the hex column of R75 writes them. -/
def sixByteKeywords : List KeywordWord :=
  [ ⟨[0x50, 0x45, 0x3A, 0x4D, 0x49, 0x4E], .kwPEMin⟩
  , ⟨[0x50, 0x45, 0x3A, 0x4D, 0x41, 0x58], .kwPEMax⟩
  , ⟨[0x52, 0x52, 0x3A, 0x4D, 0x49, 0x4E], .kwRRMin⟩
  , ⟨[0x52, 0x52, 0x3A, 0x4D, 0x41, 0x58], .kwRRMax⟩
  , ⟨[0x54, 0x52, 0x3A, 0x4D, 0x49, 0x4E], .kwTRMin⟩
  , ⟨[0x54, 0x52, 0x3A, 0x4D, 0x41, 0x58], .kwTRMax⟩
  , ⟨[0x44, 0x43, 0x3A, 0x4D, 0x49, 0x4E], .kwDCMin⟩ ]

/-- R76: the row whose bytes equal the token exactly. -/
def findKeyword (token : Bytes) : List KeywordWord → Option Instr
  | [] => none
  | row :: rows => if row.token = token then some row.instr else findKeyword token rows

/-- R76: exact, case-sensitive match of the whole token. -/
def decodeKeyword (token : Bytes) : Except DecodeError Instr :=
  match findKeyword token (twoByteKeywords ++ sixByteKeywords) with
  | some i => .ok i
  | none => .error (.unknownKeyword token)

/-- The decoder, total on whatever the port is given. -/
def decode : Encoded → Except DecodeError Instr
  | .request r => .ok (decodeRequest r)
  | .keyword t => decodeKeyword t

/-- R66: the fields that carry a RESP_FORMAT operand. -/
def encodeRespOperand : RespOperand → Request
  | .ok => { op := 0x4, k := 0 }
  | .valueText t => { op := 0x4, k := 1, s := t }
  | .valueU16 w => { op := 0x4, k := 2, w := w }
  | .error e => { op := 0x4, k := 3, e := e }

/-- The encoder: the request or the keyword bytes of an instruction, with every field its operation does not read zero or
empty. -/
def encode : Instr → Encoded
  | .swEncode f => .request { op := 0x0, f := f }
  | .swDecode w => .request { op := 0x1, w := w }
  | .cmdEncode a kw g => .request { op := 0x2, a := a, kw := kw, g := g }
  | .frameParse t => .request { op := 0x3, s := t }
  | .respFormat k => .request (encodeRespOperand k)
  | .respParse t => .request { op := 0x5, s := t }
  | .errDesc e => .request { op := 0x6, e := e }
  | .decToU16 t => .request { op := 0x7, s := t }
  | .rxPush c => .request { op := 0x8, byte := c }
  | .rxReset => .request { op := 0x9 }
  | .cfgSetAddr a => .request { op := 0xA, a := a }
  | .cfgGetAddr => .request { op := 0xB }
  | .reserved op => .request { op := op }
  | .kwBC => .keyword [0x42, 0x43]
  | .kwDC => .keyword [0x44, 0x43]
  | .kwDT => .keyword [0x44, 0x54]
  | .kwDW => .keyword [0x44, 0x57]
  | .kwEC => .keyword [0x45, 0x43]
  | .kwEM => .keyword [0x45, 0x4D]
  | .kwEN => .keyword [0x45, 0x4E]
  | .kwFL => .keyword [0x46, 0x4C]
  | .kwPE => .keyword [0x50, 0x45]
  | .kwPM => .keyword [0x50, 0x4D]
  | .kwRC => .keyword [0x52, 0x43]
  | .kwSV => .keyword [0x53, 0x56]
  | .kwRR => .keyword [0x52, 0x52]
  | .kwUC => .keyword [0x55, 0x43]
  | .kwRS => .keyword [0x52, 0x53]
  | .kwBV => .keyword [0x42, 0x56]
  | .kwFT => .keyword [0x46, 0x54]
  | .kwFV => .keyword [0x46, 0x56]
  | .kwID => .keyword [0x49, 0x44]
  | .kwIM => .keyword [0x49, 0x4D]
  | .kwLS => .keyword [0x4C, 0x53]
  | .kwPEMin => .keyword [0x50, 0x45, 0x3A, 0x4D, 0x49, 0x4E]
  | .kwPEMax => .keyword [0x50, 0x45, 0x3A, 0x4D, 0x41, 0x58]
  | .kwRRMin => .keyword [0x52, 0x52, 0x3A, 0x4D, 0x49, 0x4E]
  | .kwRRMax => .keyword [0x52, 0x52, 0x3A, 0x4D, 0x41, 0x58]
  | .kwSC => .keyword [0x53, 0x43]
  | .kwSS => .keyword [0x53, 0x53]
  | .kwTRMin => .keyword [0x54, 0x52, 0x3A, 0x4D, 0x49, 0x4E]
  | .kwTRMax => .keyword [0x54, 0x52, 0x3A, 0x4D, 0x41, 0x58]
  | .kwDCMin => .keyword [0x44, 0x43, 0x3A, 0x4D, 0x49, 0x4E]

/-- The `n` bytes of a number, most significant first: spec/opcode_table.json writes a keyword as one number whose leading
byte is the first on the wire (KW_BC is 0x4243 for 42 43). -/
def bigEndianBytes : Nat → Nat → Bytes
  | 0, _ => []
  | n + 1, w => BitVec.ofNat 8 (w >>> (8 * n)) :: bigEndianBytes n w

/-- What the port is given for the table's bits: an OP row is 4 bits of one byte and the request has every other field zero or
empty; a KW row is a keyword's bytes. -/
def encodedOfTableWord (nbits w : Nat) : Encoded :=
  if nbits ≤ 8 then .request { op := BitVec.ofNat 4 w }
  else .keyword (bigEndianBytes (nbits / 8) w)

/-- The instruction the decoder reads from the bits of a row of spec/opcode_table.json. -/
def decodeTableWord (nbits w : Nat) : Option Instr :=
  match decode (encodedOfTableWord nbits w) with
  | .ok i => some i
  | .error _ => none

/-- A big-endian number from its bytes. -/
def bigEndianNumber : Bytes → Nat → Nat
  | [], n => n
  | b :: bs, n => bigEndianNumber bs (256 * n + b.toNat)

/-- The bits spec/opcode_table.json gives an encoded instruction: how many, in whole bytes, and their value. -/
def tableWordOf : Encoded → Nat × Nat
  | .request r => (8, r.op.toNat)
  | .keyword t => (8 * t.length, bigEndianNumber t 0)

end Sys2Proof
end

