-- ==== Sys2Proof/Machine/KeywordTable.lean ====
section
/-! DEFINITION. KW_TABLE (R75), the block's one read-only memory, written from the keyword column of R75 as characters, and its
lookup (R76). -/

namespace Sys2Proof.Machine

/-- R10: the bytes of a string literal are the ASCII codes of its characters. -/
def ascii (text : List Char) : Bytes := text.map fun c => BitVec.ofNat 8 c.toNat

/-- R75: the action keywords that require an argument. -/
def argKeywords : List KwRow :=
  [ ⟨ascii ['B', 'C'], .arg⟩
  , ⟨ascii ['D', 'C'], .arg⟩
  , ⟨ascii ['D', 'T'], .arg⟩
  , ⟨ascii ['D', 'W'], .arg⟩
  , ⟨ascii ['E', 'C'], .arg⟩
  , ⟨ascii ['E', 'M'], .arg⟩
  , ⟨ascii ['E', 'N'], .arg⟩
  , ⟨ascii ['F', 'L'], .arg⟩
  , ⟨ascii ['P', 'E'], .arg⟩
  , ⟨ascii ['P', 'M'], .arg⟩
  , ⟨ascii ['R', 'C'], .arg⟩
  , ⟨ascii ['S', 'V'], .arg⟩
  , ⟨ascii ['R', 'R'], .arg⟩
  , ⟨ascii ['U', 'C'], .arg⟩ ]

/-- R75: the action-only keyword. -/
def onlyKeywords : List KwRow :=
  [ ⟨ascii ['R', 'S'], .only⟩ ]

/-- R75: the query-only keywords. -/
def qonlyKeywords : List KwRow :=
  [ ⟨ascii ['B', 'V'], .qonly⟩
  , ⟨ascii ['F', 'T'], .qonly⟩
  , ⟨ascii ['F', 'V'], .qonly⟩
  , ⟨ascii ['I', 'D'], .qonly⟩
  , ⟨ascii ['I', 'M'], .qonly⟩
  , ⟨ascii ['L', 'S'], .qonly⟩
  , ⟨ascii ['P', 'E', ':', 'M', 'I', 'N'], .qonly⟩
  , ⟨ascii ['P', 'E', ':', 'M', 'A', 'X'], .qonly⟩
  , ⟨ascii ['R', 'R', ':', 'M', 'I', 'N'], .qonly⟩
  , ⟨ascii ['R', 'R', ':', 'M', 'A', 'X'], .qonly⟩
  , ⟨ascii ['S', 'C'], .qonly⟩
  , ⟨ascii ['S', 'S'], .qonly⟩
  , ⟨ascii ['T', 'R', ':', 'M', 'I', 'N'], .qonly⟩
  , ⟨ascii ['T', 'R', ':', 'M', 'A', 'X'], .qonly⟩
  , ⟨ascii ['D', 'C', ':', 'M', 'I', 'N'], .qonly⟩ ]

/-- R75: the 30 rows. -/
def keywordTable : List KwRow := argKeywords ++ onlyKeywords ++ qonlyKeywords

/-- R76: `class(t)`, the class of the row whose bytes equal `t` exactly; `none` is UNKNOWN. -/
def keywordClass : List KwRow → Bytes → Option KwClass
  | [], _ => none
  | row :: rows, t => if row.keyword = t then some row.cls else keywordClass rows t

end Sys2Proof.Machine
end

