-- ==== Sys2Proof/Machine/Port.lean ====
section
/-! DEFINITION. The response side of the port (R63 to R70): the status, the result fields, the codes they carry, and the
response as the fields of R63 with their widths. -/

namespace Sys2Proof.Machine

/-- R201: the operation faults. A fault is a response status, never a stop of the block (R200). -/
inductive OpFault where
  /-- A reserved selector (R193). -/
  | illegalOp
  /-- An operand the operation reads, or the OUT it would return, is longer than OPERAND_MAX (R202). -/
  | operandTooLong
  /-- CMD_ENCODE with an empty keyword (R120). -/
  | malformedCommand
  /-- RESP_FORMAT of a value text that reads as another response kind (R160). -/
  | badValue
  /-- An error code number outside 1..8 (R160, R170). -/
  | codeOutOfRange
  /-- DEC_TO_U16 of text that is no decimal number in 0..65535 (R175). -/
  | notANumber
  /-- CFG_SET_ADDR of an illegal address (R191). -/
  | badAddress
  deriving DecidableEq, Repr

/-- R64: the operation status `ST`. -/
inductive Status where
  | done
  | fault (f : OpFault)
  deriving DecidableEq, Repr

/-- R64, R201: the fault's number in `ST`. -/
def OpFault.code : OpFault → BitVec 4
  | .illegalOp => 1
  | .operandTooLong => 2
  | .malformedCommand => 3
  | .badValue => 4
  | .codeOutOfRange => 5
  | .notANumber => 6
  | .badAddress => 7

/-- R64: the 4-bit `ST`. -/
def Status.code : Status → BitVec 4
  | .done => 0
  | .fault f => f.code

/-- R67: the frame result tag `RXR`. -/
inductive FrameTag where
  /-- `NONE`: no frame completed. -/
  | noFrame
  /-- `FRAME`: a command frame was recognised. -/
  | frame
  /-- `PERR`: a parse error. -/
  | perr
  deriving DecidableEq, Repr

/-- R67: the 2-bit `RXR`. -/
def FrameTag.code : FrameTag → BitVec 2
  | .noFrame => 0
  | .frame => 1
  | .perr => 2

/-- R68: the frame kind `FR_KIND`. -/
inductive FrameKind where
  | query
  | actionOnly
  | actionArg
  deriving DecidableEq, Repr

/-- R68: the 2-bit `FR_KIND`. -/
def FrameKind.code : FrameKind → BitVec 2
  | .query => 0
  | .actionOnly => 1
  | .actionArg => 2

/-- R69: the parse-error reason `PE_REASON` (its value 0 is "none" and is never the reason of an error). -/
inductive ParseReason where
  | addressMismatch
  | incomplete
  | missingKeyword
  | unrecognizedKeyword
  | missingParameter
  | queryOnlyAsAction
  | rxOverflow
  deriving DecidableEq, Repr

/-- R69: the 3-bit `PE_REASON`. -/
def ParseReason.code : ParseReason → BitVec 3
  | .addressMismatch => 1
  | .incomplete => 2
  | .missingKeyword => 3
  | .unrecognizedKeyword => 4
  | .missingParameter => 5
  | .queryOnlyAsAction => 6
  | .rxOverflow => 7

/-- R69: the protocol error number `PCODE` of a reason. -/
def ParseReason.pcode : ParseReason → BitVec 4
  | .addressMismatch => 1
  | .incomplete => 1
  | .missingKeyword => 2
  | .unrecognizedKeyword => 3
  | .missingParameter => 5
  | .queryOnlyAsAction => 6
  | .rxOverflow => 1

/-- R70: the parsed response kind `RP_KIND`. -/
inductive RespKind where
  | ok
  | value
  | error
  | malformed
  deriving DecidableEq, Repr

/-- R70: the 2-bit `RP_KIND`. -/
def RespKind.code : RespKind → BitVec 2
  | .ok => 0
  | .value => 1
  | .error => 2
  | .malformed => 3

/-- R63: a response. A field is `some v` where the operation names it and `none` where it does not, in which case it carries
no meaning (R63, R12; after a fault, R200): no value of such a field can be read from the model. -/
structure Response where
  st       : Status
  w        : Option Word16 := none
  f        : Option Flags := none
  out      : Option Bytes := none
  rxr      : Option FrameTag := none
  frKind   : Option FrameKind := none
  frAddr   : Option Addr := none
  frKw     : Option Bytes := none
  frArg    : Option (Option Bytes) := none
  peReason : Option ParseReason := none
  pcode    : Option (BitVec 4) := none
  rpKind   : Option RespKind := none
  rpCode   : Option (BitVec 4) := none
  rpValue  : Option Bytes := none
  deriving DecidableEq, Repr

/-- What `parse` answers (R122): the source's `CommandFrame | ParseError`. -/
inductive FrameResult where
  | frame (kind : FrameKind) (addr : Addr) (keyword : Bytes) (arg : Option Bytes)
  | perr (reason : ParseReason)
  deriving DecidableEq, Repr

/-- R200: the response of a fault names `ST` and nothing else. -/
def faultResponse (f : OpFault) : Response := { st := .fault f }

/-- R122: the fields a result of `parse` sets. -/
def frameResponse : FrameResult → Response
  | .frame kind addr kw arg =>
    { st := .done, rxr := some .frame, frKind := some kind, frAddr := some addr, frKw := some kw, frArg := some arg }
  | .perr reason => { st := .done, rxr := some .perr, peReason := some reason, pcode := some reason.pcode }

/-- R130: the response of an RX_PUSH that completes no frame. -/
def noFrameResponse : Response := { st := .done, rxr := some .noFrame }

/-- R63: the response as it stands on the port, every field present at its width. -/
structure PortFields where
  st       : BitVec 4
  w        : Word16
  f        : Flags
  out      : Bytes
  rxr      : BitVec 2
  frKind   : BitVec 2
  frAddr   : Addr
  frKw     : Bytes
  frArg    : Option Bytes
  peReason : BitVec 3
  pcode    : BitVec 4
  rpKind   : BitVec 2
  rpCode   : BitVec 4
  rpValue  : Bytes
  deriving DecidableEq, Repr

/-- R63: every field zero or empty. -/
def PortFields.zero : PortFields where
  st := 0
  w := 0
  f := {}
  out := []
  rxr := 0
  frKind := 0
  frAddr := ⟨0, 0⟩
  frKw := []
  frArg := none
  peReason := 0
  pcode := 0
  rpKind := 0
  rpCode := 0
  rpValue := []

/-- The response on the port: the fields the operation names as it set them, the others from `idle`. R63 writes the others
zero or empty (`PortFields.zero`); spec 93 I8 and I9 allow any value there, so a claim is made for every `idle`
(notes/assumptions/6.md). -/
def Response.onPort (r : Response) (idle : PortFields) : PortFields where
  st := r.st.code
  w := r.w.getD idle.w
  f := r.f.getD idle.f
  out := r.out.getD idle.out
  rxr := (r.rxr.map FrameTag.code).getD idle.rxr
  frKind := (r.frKind.map FrameKind.code).getD idle.frKind
  frAddr := r.frAddr.getD idle.frAddr
  frKw := r.frKw.getD idle.frKw
  frArg := r.frArg.getD idle.frArg
  peReason := (r.peReason.map ParseReason.code).getD idle.peReason
  pcode := r.pcode.getD idle.pcode
  rpKind := (r.rpKind.map RespKind.code).getD idle.rpKind
  rpCode := r.rpCode.getD idle.rpCode
  rpValue := r.rpValue.getD idle.rpValue

end Sys2Proof.Machine
end

