-- ==== Sys2Proof/Machine/State.lean ====
section
/-! DEFINITION. The state of the codec block (R23 to R28), the host's side of the port (R40, R42, R50), and the state after
reset (R230). The block has no general registers, no program counter, no condition codes and no memory (R20, R21, R29, R41). -/

namespace Sys2Proof.Machine

/-- R50: what the host does to the block. Nothing outside this list happens to it. -/
inductive HostInput where
  /-- Issue an operation: a request, or a keyword as its one-token command frame. -/
  | issue (e : Encoded)
  /-- Assert the reset input (R231). -/
  | reset
  deriving DecidableEq, Repr

/-- Why a step stops the machine: it never does. R200: after an operation fault the block "stays ready for the next request",
and R208: there is no trap. Nobody raises a Fault; the type is empty, which is safe. -/
inductive Fault where
  deriving DecidableEq, Repr

/-- Why a step has no meaning. -/
inductive Refusal where
  /-- The instruction of this mnemonic is not modelled. Raised by an arm of exec that rejects its instruction by name, of which
  none is left. Safe: nothing can be proved of a run past it. -/
  | notModelled (mnemonic : String)
  deriving DecidableEq, Repr

/-- Everything the spec gives the machine, and the model's own view of its port. -/
structure State where
  /-- `CFG_ADDR` (R23): the configured device address. -/
  cfgAddr : Addr
  /-- `RX_BUF` (R24): the bytes of the current inbound frame received so far, without its terminator. -/
  rxBuf : Bytes
  /-- `RX_OVF` (R25): a byte of the current frame was dropped because RX_BUF was full. -/
  rxOvf : Bool
  /-- `RX_PREV_CR` (R26): the last byte RX_PUSH took was a CR that ended a frame. -/
  rxPrevCr : Bool
  /-- `KW_TABLE` (R27): the constant keyword table. -/
  kwTable : List KwRow
  /-- The build's parameters (R7), which no operation changes. -/
  config : Config
  /-- The model's own: what the host will do next, the next first (R42, notes/assumptions/3.md). -/
  inputs : List HostInput
  /-- The model's own: the response to the last request since reset (R40, R63, notes/assumptions/4.md). -/
  response : Option Response
  deriving DecidableEq, Repr

/-- R230: the state after reset, with the default parameters (R7), no input waiting and nothing answered yet. -/
def State.reset : State where
  cfgAddr := Config.default.addrReset
  rxBuf := []
  rxOvf := false
  rxPrevCr := false
  kwTable := keywordTable
  config := Config.default
  inputs := []
  response := none

end Sys2Proof.Machine
end

