-- ==== Sys2Proof/Machine/Ops.lean ====
section
/-! DEFINITION. The shared operations on the state: answering a request, raising an operation fault, the assembler's writes, the
reset input, and taking the host's next input. The block has no memory, so there are no memory operations (R41). -/

namespace Sys2Proof.Machine

/-- What one step of this machine answers. -/
abbrev Result := Host.Outcome State Fault Refusal

/-- The response goes to the port; nothing else changes. -/
def State.respond (s : State) (r : Response) : State := { s with response := some r }

/-- R12: `return (…)`: the operation ends with this response, leaving the state as it then is. -/
def complete (s : State) (r : Response) : Result := .next (s.respond r)

/-- R12, R200: `raise Fault(ST_x)`: the response has `ST = ST_x` and no result field, and every state element keeps the value it
had before the request. This is the block's whole exception mechanism: nothing is saved, no mode changes, control goes nowhere
(R208), and there is nothing to return from (R209). -/
def raiseFault (s : State) (f : OpFault) : Result := complete s (faultResponse f)

/-- R191: `CFG_ADDR <- a`. -/
def State.setAddr (s : State) (a : Addr) : State := { s with cfgAddr := a }

/-- R131: the assembler's three elements at their reset values. -/
def State.clearAssembler (s : State) : State := { s with rxBuf := [], rxOvf := false, rxPrevCr := false }

/-- R130: a frame ended at a terminator: the buffer and the overflow bit are cleared, and RX_PREV_CR says whether the
terminator was a CR. -/
def State.endFrame (s : State) (endedByCr : Bool) : State :=
  { s with rxBuf := [], rxOvf := false, rxPrevCr := endedByCr }

/-- R130: the LF after a frame-ending CR is stripped. -/
def State.stripLf (s : State) : State := { s with rxPrevCr := false }

/-- R130: a byte of a frame: kept while RX_BUF has room, dropped with RX_OVF set once it is full. -/
def State.collect (s : State) (c : Byte) : State :=
  if s.rxBuf.length < s.config.rxCap then { s with rxPrevCr := false, rxBuf := s.rxBuf ++ [c] }
  else { s with rxPrevCr := false, rxOvf := true }

/-- R230, R231: the reset input: every state element takes its reset value, KW_TABLE is not touched, and there is no response.
The parameters and what the host will do next are no state of the block and stay. -/
def State.applyReset (s : State) : State :=
  { s.clearAssembler with cfgAddr := s.config.addrReset, response := none }

/-- R63: what stands on the port's response side; `none` where no request has been answered since reset. -/
def State.portOut (s : State) (idle : PortFields) : Option PortFields := s.response.map fun r => r.onPort idle

/-- `;`, 0x3B (R10). -/
def semicolon : Byte := 0x3B
/-- `:`, 0x3A (R10). -/
def colon : Byte := 0x3A
/-- `?`, 0x3F (R10). -/
def questionMark : Byte := 0x3F
/-- CR, 0x0D (R10). -/
def cr : Byte := 0x0D
/-- LF, 0x0A (R10). -/
def lf : Byte := 0x0A
/-- Space, 0x20 (R10). -/
def space : Byte := 0x20

/-- 95_test_vectors.md L1-8: a keyword as a one-token action frame for the configured address, `;<CFG_ADDR>:<keyword>` CR. -/
def oneTokenFrame (a : Addr) (keyword : Bytes) : Bytes := [semicolon] ++ a.bytes ++ [colon] ++ keyword ++ [cr]

/-- The instruction the block performs for what the host issues. A token that is no row of KW_TABLE has no instruction of its own
name: the host's command is then the FRAME_PARSE of its frame, which is what a KW row is too (notes/assumptions/2.md). -/
def instrOf (s : State) (e : Encoded) : Instr :=
  match decode e with
  | .ok i => i
  | .error (.unknownKeyword token) => .frameParse (oneTokenFrame s.cfgAddr token)

/-- What the host's next input asks for. -/
inductive Fetched where
  /-- The host does nothing now. -/
  | idle
  /-- The reset input, with the later inputs left in the state. -/
  | reset (s : State)
  /-- An instruction, with the later inputs left in the state. -/
  | run (i : Instr) (s : State)
  deriving DecidableEq, Repr

/-- R42: the inputs are taken one at a time, in the order the host issues them. -/
def fetch (s : State) : Fetched :=
  match s.inputs with
  | [] => .idle
  | .reset :: rest => .reset { s with inputs := rest }
  | .issue e :: rest => .run (instrOf s e) { s with inputs := rest }

end Sys2Proof.Machine
end

