-- ==== Sys2Proof/Machine/Operands.lean ====
section
/-! DEFINITION. The operand forms: the length check of every byte-string operand (R202), the search primitives (R11), the legal
values of an address (R190), of a value text (R160) and of an error code, and decimal text (R161, R175). -/

namespace Sys2Proof.Machine

/-- R202: the byte string has more than OPERAND_MAX bytes. -/
def tooLong (s : State) (text : Bytes) : Bool := decide (s.config.operandMax < text.length)

/-- R202 for the operand `G`, which is checked where it is present. -/
def argTooLong (s : State) : Option Bytes → Bool
  | none => false
  | some g => tooLong s g

/-- R11: `find_first(s, X)`, the least index whose byte is in `X`. -/
def findFirst (inX : Byte → Bool) : Bytes → Option Nat
  | [] => none
  | b :: bs => if inX b then some 0 else (findFirst inX bs).map (· + 1)

/-- The byte is CR or LF. -/
def isTerminator (b : Byte) : Bool := b == cr || b == lf

/-- R7: the byte is in `WS`. -/
def isSpace (ws : Bytes) (b : Byte) : Bool := ws.contains b

/-- One token ended: it is listed unless it is empty. -/
def consToken (token : Bytes) (later : List Bytes) : List Bytes := if token = [] then later else token :: later

/-- R11, with `token` the bytes of the substring being read. -/
def tokensFrom (ws : Bytes) : Bytes → Bytes → List Bytes
  | token, [] => consToken token []
  | token, b :: bs => if isSpace ws b then consToken token (tokensFrom ws [] bs) else tokensFrom ws (token ++ [b]) bs

/-- R11: `tokens(s)`, the maximal non-empty substrings that contain no byte of `WS`, in order. -/
def tokens (ws : Bytes) (text : Bytes) : List Bytes := tokensFrom ws [] text

/-- R190: a byte of a legal address is in 0x21..0x7E and is not `:`. -/
def legalAddrByte (b : Byte) : Bool := decide (0x21 ≤ b.toNat) && decide (b.toNat ≤ 0x7E) && b != colon

/-- R190: both bytes are legal. -/
def legalAddr (a : Addr) : Bool := legalAddrByte a.first && legalAddrByte a.second

/-- R190, R191: the address a byte string of exactly 2 legal bytes is. -/
def legalAddress : Bytes → Option Addr
  | [b, c] => if legalAddr ⟨b, c⟩ then some ⟨b, c⟩ else none
  | _ => none

/-- `OK`. -/
def okUpper : Bytes := [0x4F, 0x4B]
/-- `ok`. -/
def okLower : Bytes := [0x6F, 0x6B]

/-- R160, R165: the text reads as OK. -/
def readsAsOk (text : Bytes) : Bool := text == okUpper || text == okLower

/-- R160: `value_text_ok(S)`. -/
def valueTextOk (text : Bytes) : Bool :=
  decide (1 ≤ text.length) && !text.any isTerminator && !(text.head? == some questionMark) && !readsAsOk text

/-- R160, R170: the error code number is in 1..8. -/
def codeInRange (e : BitVec 4) : Bool := decide (1 ≤ e.toNat) && decide (e.toNat ≤ 8)

/-- R161: the byte of a decimal digit. -/
def digitByte (d : Nat) : Byte := BitVec.ofNat 8 (0x30 + d)

/-- R161: the base-10 digits of `n`, most significant first, for an `n` of at most `fuel` digits. -/
def decDigits : Nat → Nat → Bytes
  | 0, _ => []
  | fuel + 1, n => if n < 10 then [digitByte n] else decDigits fuel (n / 10) ++ [digitByte (n % 10)]

/-- R161: `dec16(w)`; a 16-bit value has at most 5 digits. -/
def dec16 (w : Word16) : Bytes := decDigits 5 w.toNat

/-- R175: the byte is a decimal digit. -/
def isDigit (b : Byte) : Bool := decide (0x30 ≤ b.toNat) && decide (b.toNat ≤ 0x39)

/-- R175: the loop over the digits, exact and unbounded; `none` at the first byte that is no digit. -/
def decValueFrom : Nat → Bytes → Option Nat
  | v, [] => some v
  | v, b :: bs => if isDigit b then decValueFrom (10 * v + (b.toNat - 0x30)) bs else none

end Sys2Proof.Machine
end

