-- ==== Sys2Proof/Machine/FrameCodec.lean ====
section
/-! DEFINITION. Building a command frame (R120) and tokenizing one (R122 to R128). -/

namespace Sys2Proof.Machine

/-- R120: the space and the argument; an empty argument is treated as none (D18). -/
def argumentPart : Option Bytes → Bytes
  | none => []
  | some g => if g.length = 0 then [] else [space] ++ g

/-- R120: the frame `;<address>:<keyword>[ <argument>]` CR, whatever bytes it is given. -/
def buildFrame (a kw : Bytes) (g : Option Bytes) : Bytes :=
  [semicolon] ++ a ++ [colon] ++ kw ++ argumentPart g ++ [cr]

/-- CMD_ENCODE (R120), its faults in the order of R203. -/
def execCmdEncode (a kw : Bytes) (g : Option Bytes) (s : State) : Result :=
  if tooLong s a || tooLong s kw then raiseFault s .operandTooLong
  else if argTooLong s g then raiseFault s .operandTooLong
  else if kw.length = 0 then raiseFault s .malformedCommand
  else if tooLong s (buildFrame a kw g) then raiseFault s .operandTooLong
  else complete s { st := .done, out := some (buildFrame a kw g) }

/-- R126: a payload of one token, by the keyword's class. -/
def parseOneToken (kwTable : List KwRow) (addr : Addr) (t : Bytes) : FrameResult :=
  match keywordClass kwTable t with
  | some .only => .frame .actionOnly addr t none
  | some .arg => .perr .missingParameter
  | some .qonly => .perr .queryOnlyAsAction
  | none => .perr .unrecognizedKeyword

/-- R126: step 4, the action forms, on the tokens of a payload without `?`. -/
def parseAction (kwTable : List KwRow) (addr : Addr) : List Bytes → FrameResult
  | [] => .perr .missingKeyword
  | [t] => parseOneToken kwTable addr t
  | [t, u] => .frame .actionArg addr t (some u)
  | _ => .perr .unrecognizedKeyword

/-- R125: step 3, the query form, on the tokens before the first `?` and those after it. -/
def parseQuery (addr : Addr) : List Bytes → List Bytes → FrameResult
  | [], _ => .perr .missingKeyword
  | [t], [] => .frame .query addr t none
  | _, _ => .perr .unrecognizedKeyword

/-- R125, R126: the payload is a query where it holds a `?`, and an action otherwise. -/
def parsePayload (ws : Bytes) (kwTable : List KwRow) (addr : Addr) (payload : Bytes) : FrameResult :=
  match findFirst (· == questionMark) payload with
  | some q => parseQuery addr (tokens ws (payload.take q)) (tokens ws (payload.drop (q + 1)))
  | none => parseAction kwTable addr (tokens ws payload)

/-- R124: step 2, the terminator: the payload is everything before the first CR or LF. -/
def parseRemainder (ws : Bytes) (kwTable : List KwRow) (addr : Addr) (rem : Bytes) : FrameResult :=
  match findFirst isTerminator rem with
  | none => .perr .incomplete
  | some j => parsePayload ws kwTable addr (rem.take j)

/-- R123: step 1, the address: the part before the first `:` is exactly `;` and the address. The steps run in this order and
the first that fails decides (R127). -/
def parse (ws : Bytes) (kwTable : List KwRow) (addr : Addr) (text : Bytes) : FrameResult :=
  match findFirst (· == colon) text with
  | none => .perr .addressMismatch
  | some i =>
    if text.take i ≠ [semicolon] ++ addr.bytes then .perr .addressMismatch
    else parseRemainder ws kwTable addr (text.drop (i + 1))

/-- `parse(S, CFG_ADDR)` with the block's own whitespace set, keyword table and address. -/
def State.parse (s : State) (text : Bytes) : FrameResult := Machine.parse s.config.ws s.kwTable s.cfgAddr text

/-- R122: the whole of FRAME_PARSE on a byte string. A parse error is a result, not a fault (R204). -/
def parseFrame (text : Bytes) (s : State) : Result :=
  if tooLong s text then raiseFault s .operandTooLong
  else complete s (frameResponse (s.parse text))

/-- FRAME_PARSE (R122). -/
def execFrameParse (text : Bytes) (s : State) : Result := parseFrame text s

end Sys2Proof.Machine
end

