-- ==== Sys2Proof/Machine/Assembler.lean ====
section
/-! DEFINITION. The frame assembler (R130, R131). -/

namespace Sys2Proof.Machine

/-- R130: the result at a terminator `c`: RX_OVERFLOW where a byte was dropped, else the parse of the frame against the address
held now (R240). -/
def State.frameEnded (s : State) (c : Byte) : FrameResult :=
  if s.rxOvf then .perr .rxOverflow else s.parse (s.rxBuf ++ [c])

/-- RX_PUSH (R130). -/
def execRxPush (c : Byte) (s : State) : Result :=
  if c = lf ∧ s.rxPrevCr = true then complete s.stripLf noFrameResponse
  else if c = cr ∨ c = lf then complete (s.endFrame (c == cr)) (frameResponse (s.frameEnded c))
  else complete (s.collect c) noFrameResponse

/-- RX_RESET (R131). -/
def execRxReset (s : State) : Result := complete s.clearAssembler { st := .done }

end Sys2Proof.Machine
end

