-- ==== Sys2Proof/Machine/Configuration.lean ====
section
/-! DEFINITION. The configured device address (R191, R192) and the reserved selectors (R193). -/

namespace Sys2Proof.Machine

/-- CFG_SET_ADDR (R191). Any host may issue it at any time: the block has one mode (R210). -/
def execCfgSetAddr (a : Bytes) (s : State) : Result :=
  if tooLong s a then raiseFault s .operandTooLong
  else
    match legalAddress a with
    | none => raiseFault s .badAddress
    | some addr => complete (s.setAddr addr) { st := .done }

/-- CFG_GET_ADDR (R192). -/
def execCfgGetAddr (s : State) : Result := complete s { st := .done, out := some s.cfgAddr.bytes }

/-- A reserved selector (R193): `ILLEGAL_OP`; no operand is read, whichever of 0xC to 0xF it is. -/
def execReserved (s : State) : Result := raiseFault s .illegalOp

end Sys2Proof.Machine
end

