-- ==== Sys2Proof/Machine/KeywordCommands.lean ====
section
/-! DEFINITION. The keywords of KW_TABLE as instructions: each is FRAME_PARSE of the keyword's one-token action frame
(95_test_vectors.md L1-8, R126). What comes of it is decided by the class KW_TABLE gives the keyword. -/

namespace Sys2Proof.Machine

/-- The block tokenizes the one-token action frame of this keyword for the address it is configured with. -/
def commandAlone (keyword : Bytes) (s : State) : Result := parseFrame (oneTokenFrame s.cfgAddr keyword) s

/-- KW BC (R75, ARG). -/
def execKwBC (s : State) : Result := commandAlone [0x42, 0x43] s

/-- KW DC (R75, ARG). -/
def execKwDC (s : State) : Result := commandAlone [0x44, 0x43] s

/-- KW DT (R75, ARG). -/
def execKwDT (s : State) : Result := commandAlone [0x44, 0x54] s

/-- KW DW (R75, ARG). -/
def execKwDW (s : State) : Result := commandAlone [0x44, 0x57] s

/-- KW EC (R75, ARG). -/
def execKwEC (s : State) : Result := commandAlone [0x45, 0x43] s

/-- KW EM (R75, ARG). -/
def execKwEM (s : State) : Result := commandAlone [0x45, 0x4D] s

/-- KW EN (R75, ARG). -/
def execKwEN (s : State) : Result := commandAlone [0x45, 0x4E] s

/-- KW FL (R75, ARG). -/
def execKwFL (s : State) : Result := commandAlone [0x46, 0x4C] s

/-- KW PE (R75, ARG). -/
def execKwPE (s : State) : Result := commandAlone [0x50, 0x45] s

/-- KW PM (R75, ARG). -/
def execKwPM (s : State) : Result := commandAlone [0x50, 0x4D] s

/-- KW RC (R75, ARG). -/
def execKwRC (s : State) : Result := commandAlone [0x52, 0x43] s

/-- KW SV (R75, ARG). -/
def execKwSV (s : State) : Result := commandAlone [0x53, 0x56] s

/-- KW RR (R75, ARG). -/
def execKwRR (s : State) : Result := commandAlone [0x52, 0x52] s

/-- KW UC (R75, ARG). -/
def execKwUC (s : State) : Result := commandAlone [0x55, 0x43] s

/-- KW RS (R75, ONLY). -/
def execKwRS (s : State) : Result := commandAlone [0x52, 0x53] s

/-- KW BV (R75, QONLY). -/
def execKwBV (s : State) : Result := commandAlone [0x42, 0x56] s

/-- KW FT (R75, QONLY). -/
def execKwFT (s : State) : Result := commandAlone [0x46, 0x54] s

/-- KW FV (R75, QONLY). -/
def execKwFV (s : State) : Result := commandAlone [0x46, 0x56] s

/-- KW ID (R75, QONLY). -/
def execKwID (s : State) : Result := commandAlone [0x49, 0x44] s

/-- KW IM (R75, QONLY). -/
def execKwIM (s : State) : Result := commandAlone [0x49, 0x4D] s

/-- KW LS (R75, QONLY). -/
def execKwLS (s : State) : Result := commandAlone [0x4C, 0x53] s

/-- KW PE:MIN (R75, QONLY). -/
def execKwPEMin (s : State) : Result := commandAlone [0x50, 0x45, 0x3A, 0x4D, 0x49, 0x4E] s

/-- KW PE:MAX (R75, QONLY). -/
def execKwPEMax (s : State) : Result := commandAlone [0x50, 0x45, 0x3A, 0x4D, 0x41, 0x58] s

/-- KW RR:MIN (R75, QONLY). -/
def execKwRRMin (s : State) : Result := commandAlone [0x52, 0x52, 0x3A, 0x4D, 0x49, 0x4E] s

/-- KW RR:MAX (R75, QONLY). -/
def execKwRRMax (s : State) : Result := commandAlone [0x52, 0x52, 0x3A, 0x4D, 0x41, 0x58] s

/-- KW SC (R75, QONLY). -/
def execKwSC (s : State) : Result := commandAlone [0x53, 0x43] s

/-- KW SS (R75, QONLY). -/
def execKwSS (s : State) : Result := commandAlone [0x53, 0x53] s

/-- KW TR:MIN (R75, QONLY). -/
def execKwTRMin (s : State) : Result := commandAlone [0x54, 0x52, 0x3A, 0x4D, 0x49, 0x4E] s

/-- KW TR:MAX (R75, QONLY). -/
def execKwTRMax (s : State) : Result := commandAlone [0x54, 0x52, 0x3A, 0x4D, 0x41, 0x58] s

/-- KW DC:MIN (R75, QONLY). -/
def execKwDCMin (s : State) : Result := commandAlone [0x44, 0x43, 0x3A, 0x4D, 0x49, 0x4E] s

end Sys2Proof.Machine
end

