-- ==== Sys2Proof/Machine/ResponseCodec.lean ====
section
/-! DEFINITION. Response lines: formatting (R160), parsing (R165), the error descriptions (R170) and reading a decimal value
(R175). -/

namespace Sys2Proof.Machine

/-- CR LF. -/
def crLf : Bytes := [cr, lf]

/-- RESP_FORMAT (R160), by its kind. -/
def execRespFormat (k : RespOperand) (s : State) : Result :=
  match k with
  | .ok => complete s { st := .done, out := some (okUpper ++ crLf) }
  | .valueText text =>
    if tooLong s text then raiseFault s .operandTooLong
    else if !valueTextOk text then raiseFault s .badValue
    else if tooLong s (text ++ crLf) then raiseFault s .operandTooLong
    else complete s { st := .done, out := some (text ++ crLf) }
  | .valueU16 w => complete s { st := .done, out := some (dec16 w ++ crLf) }
  | .error e =>
    if !codeInRange e then raiseFault s .codeOutOfRange
    else complete s { st := .done, out := some ([questionMark, digitByte e.toNat] ++ crLf) }

/-- R165: the line without its terminator, CR LF or a lone CR or LF; `none` where it has none. -/
def responseBody (text : Bytes) : Option Bytes :=
  if text.drop (text.length - 2) = [cr, lf] then some (text.take (text.length - 2))
  else if text.drop (text.length - 1) = [cr] ∨ text.drop (text.length - 1) = [lf] then some (text.take (text.length - 1))
  else none

/-- R165: a malformed line is a result. -/
def malformedLine : Response := { st := .done, rpKind := some .malformed }

/-- R165: a body that begins with `?`: an error code of the closed set, or malformed. -/
def parseErrorBody : Bytes → Response
  | [_, d] =>
    if 0x31 ≤ d.toNat ∧ d.toNat ≤ 0x38 then
      { st := .done, rpKind := some .error, rpCode := some (BitVec.ofNat 4 (d.toNat - 0x30)) }
    else malformedLine
  | _ => malformedLine

/-- R165: the kind of a line by its body. -/
def parseBody (body : Bytes) : Response :=
  if body.any isTerminator then malformedLine
  else if readsAsOk body then { st := .done, rpKind := some .ok }
  else if body.length = 0 then malformedLine
  else if body.head? = some questionMark then parseErrorBody body
  else { st := .done, rpKind := some .value, rpValue := some body }

/-- R165: the result for a whole line. -/
def parseResponse (text : Bytes) : Response :=
  match responseBody text with
  | none => malformedLine
  | some body => parseBody body

/-- RESP_PARSE (R165). -/
def execRespParse (text : Bytes) (s : State) : Result :=
  if tooLong s text then raiseFault s .operandTooLong
  else complete s (parseResponse text)

/-- R170: `command not recognized`. -/
def commandNotRecognizedText : Bytes :=
  ascii ['c', 'o', 'm', 'm', 'a', 'n', 'd', ' ', 'n', 'o', 't', ' ', 'r', 'e', 'c', 'o', 'g', 'n', 'i', 'z', 'e', 'd']

/-- R170: `missing keyword`. -/
def missingKeywordText : Bytes :=
  ascii ['m', 'i', 's', 's', 'i', 'n', 'g', ' ', 'k', 'e', 'y', 'w', 'o', 'r', 'd']

/-- R170: `invalid keyword`. -/
def invalidKeywordText : Bytes :=
  ascii ['i', 'n', 'v', 'a', 'l', 'i', 'd', ' ', 'k', 'e', 'y', 'w', 'o', 'r', 'd']

/-- R170: `missing parameter`. -/
def missingParameterText : Bytes :=
  ascii ['m', 'i', 's', 's', 'i', 'n', 'g', ' ', 'p', 'a', 'r', 'a', 'm', 'e', 't', 'e', 'r']

/-- R170: `invalid parameter`. -/
def invalidParameterText : Bytes :=
  ascii ['i', 'n', 'v', 'a', 'l', 'i', 'd', ' ', 'p', 'a', 'r', 'a', 'm', 'e', 't', 'e', 'r']

/-- R170: `query-only command missing ?`. -/
def queryOnlyMissingMarkText : Bytes :=
  ascii ['q', 'u', 'e', 'r', 'y', '-', 'o', 'n', 'l', 'y', ' ', 'c', 'o', 'm', 'm', 'a', 'n', 'd', ' ', 'm', 'i', 's', 's', 'i', 'n', 'g', ' ', '?']

/-- R170: `command has no query form`. -/
def noQueryFormText : Bytes :=
  ascii ['c', 'o', 'm', 'm', 'a', 'n', 'd', ' ', 'h', 'a', 's', ' ', 'n', 'o', ' ', 'q', 'u', 'e', 'r', 'y', ' ', 'f', 'o', 'r', 'm']

/-- R170: `unavailable in current state`. -/
def unavailableText : Bytes :=
  ascii ['u', 'n', 'a', 'v', 'a', 'i', 'l', 'a', 'b', 'l', 'e', ' ', 'i', 'n', ' ', 'c', 'u', 'r', 'r', 'e', 'n', 't', ' ', 's', 't', 'a', 't', 'e']

/-- R170: `DESC[E]` for `E` in 1..8. -/
def errorText : Nat → Option Bytes
  | 1 => some commandNotRecognizedText
  | 2 => some missingKeywordText
  | 3 => some invalidKeywordText
  | 4 => some missingParameterText
  | 5 => some invalidParameterText
  | 6 => some queryOnlyMissingMarkText
  | 7 => some noQueryFormText
  | 8 => some unavailableText
  | _ => none

/-- ERR_DESC (R170). -/
def execErrDesc (e : BitVec 4) (s : State) : Result :=
  match errorText e.toNat with
  | some text => complete s { st := .done, out := some text }
  | none => raiseFault s .codeOutOfRange

/-- DEC_TO_U16 (R175). -/
def execDecToU16 (text : Bytes) (s : State) : Result :=
  if tooLong s text then raiseFault s .operandTooLong
  else if text.length = 0 then raiseFault s .notANumber
  else
    match decValueFrom 0 text with
    | none => raiseFault s .notANumber
    | some v =>
      if 65535 < v then raiseFault s .notANumber
      else complete s { st := .done, w := some (BitVec.ofNat 16 v) }

end Sys2Proof.Machine
end

