-- ==== Sys2Proof/Machine/Flags.lean ====
section
/-! DEFINITION. The status word's layout (R100) and its packing and unpacking (R101, R102). The block has no condition codes of
its own (R29): these flags are operands and results. -/

namespace Sys2Proof.Machine

/-- R100: the names of the 11 flags. -/
inductive Flag where
  | laserEnabled
  | laserActive
  | diodeExtTrigger
  | extInterlock
  | resonatorOverTemp
  | electricalOverTemp
  | powerFailure
  | readyToEnable
  | readyToFire
  | lowPowerMode
  | highPowerMode
  deriving DecidableEq, Repr

/-- R100: `b(n)`, the bit index of a named flag; a correction to the layout is made here alone (spec 93 I11). -/
def flagBit : Flag → Nat
  | .laserEnabled => 0
  | .laserActive => 1
  | .diodeExtTrigger => 3
  | .extInterlock => 6
  | .resonatorOverTemp => 7
  | .electricalOverTemp => 8
  | .powerFailure => 9
  | .readyToEnable => 10
  | .readyToFire => 11
  | .lowPowerMode => 12
  | .highPowerMode => 13

/-- `F.n`: the value of the flag named `n`. -/
def getFlag (f : Flags) : Flag → Bool
  | .laserEnabled => f.laserEnabled
  | .laserActive => f.laserActive
  | .diodeExtTrigger => f.diodeExtTrigger
  | .extInterlock => f.extInterlock
  | .resonatorOverTemp => f.resonatorOverTemp
  | .electricalOverTemp => f.electricalOverTemp
  | .powerFailure => f.powerFailure
  | .readyToEnable => f.readyToEnable
  | .readyToFire => f.readyToFire
  | .lowPowerMode => f.lowPowerMode
  | .highPowerMode => f.highPowerMode

/-- R104: the flags in the fixed index order in which R101 visits them. -/
def flagOrder : List Flag :=
  [ .laserEnabled, .laserActive, .diodeExtTrigger, .extInterlock, .resonatorOverTemp, .electricalOverTemp
  , .powerFailure, .readyToEnable, .readyToFire, .lowPowerMode, .highPowerMode ]

/-- R101: the loop over the named flags: each one that is 1 sets its bit. -/
def packOver (f : Flags) : List Flag → Word16 → Word16
  | [], w => w
  | n :: ns, w => packOver f ns (if getFlag f n then w ||| ((1 : Word16) <<< flagBit n) else w)

/-- R101: the status word of a flag vector. -/
def packFlags (f : Flags) : Word16 := packOver f flagOrder 0

/-- R102: the flag vector of a status word; the reserved bits are read by nothing. -/
def unpackFlags (w : Word16) : Flags where
  laserEnabled := w.getLsbD (flagBit .laserEnabled)
  laserActive := w.getLsbD (flagBit .laserActive)
  diodeExtTrigger := w.getLsbD (flagBit .diodeExtTrigger)
  extInterlock := w.getLsbD (flagBit .extInterlock)
  resonatorOverTemp := w.getLsbD (flagBit .resonatorOverTemp)
  electricalOverTemp := w.getLsbD (flagBit .electricalOverTemp)
  powerFailure := w.getLsbD (flagBit .powerFailure)
  readyToEnable := w.getLsbD (flagBit .readyToEnable)
  readyToFire := w.getLsbD (flagBit .readyToFire)
  lowPowerMode := w.getLsbD (flagBit .lowPowerMode)
  highPowerMode := w.getLsbD (flagBit .highPowerMode)

end Sys2Proof.Machine
end

