-- ==== Sys2Proof/Machine/StatusCodec.lean ====
section
/-! DEFINITION. The status word codec (R101, R102). Both operations are pure and have no failure mode. -/

namespace Sys2Proof.Machine

/-- SW_ENCODE (R101). -/
def execSwEncode (f : Flags) (s : State) : Result :=
  complete s { st := .done, w := some (packFlags f) }

/-- SW_DECODE (R102). -/
def execSwDecode (w : Word16) (s : State) : Result :=
  complete s { st := .done, f := some (unpackFlags w) }

end Sys2Proof.Machine
end

