-- ==== Sys2Proof/Machine/Dispatch.lean ====
section
/-! DEFINITION. The meaning of each instruction, one arm per constructor. -/

namespace Sys2Proof.Machine

def exec (i : Instr) (s : State) : Host.Outcome State Fault Refusal :=
  match i with
  | .swEncode f => Sys2Proof.Machine.execSwEncode f s
  | .swDecode w => Sys2Proof.Machine.execSwDecode w s
  | .cmdEncode a kw g => Sys2Proof.Machine.execCmdEncode a kw g s
  | .frameParse text => Sys2Proof.Machine.execFrameParse text s
  | .respFormat k => Sys2Proof.Machine.execRespFormat k s
  | .respParse text => Sys2Proof.Machine.execRespParse text s
  | .errDesc e => Sys2Proof.Machine.execErrDesc e s
  | .decToU16 text => Sys2Proof.Machine.execDecToU16 text s
  | .rxPush c => Sys2Proof.Machine.execRxPush c s
  | .rxReset => Sys2Proof.Machine.execRxReset s
  | .cfgSetAddr a => Sys2Proof.Machine.execCfgSetAddr a s
  | .cfgGetAddr => Sys2Proof.Machine.execCfgGetAddr s
  | .reserved _ => Sys2Proof.Machine.execReserved s
  | .kwBC => Sys2Proof.Machine.execKwBC s
  | .kwDC => Sys2Proof.Machine.execKwDC s
  | .kwDT => Sys2Proof.Machine.execKwDT s
  | .kwDW => Sys2Proof.Machine.execKwDW s
  | .kwEC => Sys2Proof.Machine.execKwEC s
  | .kwEM => Sys2Proof.Machine.execKwEM s
  | .kwEN => Sys2Proof.Machine.execKwEN s
  | .kwFL => Sys2Proof.Machine.execKwFL s
  | .kwPE => Sys2Proof.Machine.execKwPE s
  | .kwPM => Sys2Proof.Machine.execKwPM s
  | .kwRC => Sys2Proof.Machine.execKwRC s
  | .kwSV => Sys2Proof.Machine.execKwSV s
  | .kwRR => Sys2Proof.Machine.execKwRR s
  | .kwUC => Sys2Proof.Machine.execKwUC s
  | .kwRS => Sys2Proof.Machine.execKwRS s
  | .kwBV => Sys2Proof.Machine.execKwBV s
  | .kwFT => Sys2Proof.Machine.execKwFT s
  | .kwFV => Sys2Proof.Machine.execKwFV s
  | .kwID => Sys2Proof.Machine.execKwID s
  | .kwIM => Sys2Proof.Machine.execKwIM s
  | .kwLS => Sys2Proof.Machine.execKwLS s
  | .kwPEMin => Sys2Proof.Machine.execKwPEMin s
  | .kwPEMax => Sys2Proof.Machine.execKwPEMax s
  | .kwRRMin => Sys2Proof.Machine.execKwRRMin s
  | .kwRRMax => Sys2Proof.Machine.execKwRRMax s
  | .kwSC => Sys2Proof.Machine.execKwSC s
  | .kwSS => Sys2Proof.Machine.execKwSS s
  | .kwTRMin => Sys2Proof.Machine.execKwTRMin s
  | .kwTRMax => Sys2Proof.Machine.execKwTRMax s
  | .kwDCMin => Sys2Proof.Machine.execKwDCMin s

end Sys2Proof.Machine
end

