-- ==== Sys2Proof/Machine/Step.lean ====
section
/-! DEFINITION. One step of the machine: the host's next input is taken and carried out whole (R40, R42). -/

namespace Sys2Proof.Machine

/-- R42: the next input. With none waiting the block does nothing. -/
def step (s : State) : Host.Outcome State Fault Refusal :=
  match fetch s with
  | .idle => .next s
  | .reset t => .next t.applyReset
  | .run i t => exec i t

/-- The instruction of these table bits is what the host issues next. The block fetches no program (R45): an instruction comes
to run by being issued (notes/assumptions/3.md). -/
def State.withFetchWord (s : State) (nbits w : Nat) : State :=
  { s with inputs := .issue (encodedOfTableWord nbits w) :: s.inputs }

end Sys2Proof.Machine
end

