-- ==== Sys2Proof/Safety.lean ====
section
/-! DEFINITION. What counts as a safe state and a safe outcome, and the terms the statements use: the invariant of the block's state
(R23 to R28), clean tokens (R121), and what leaves the block's own state alone (R49, R200). -/

namespace Sys2Proof.Machine

/-- The rows of KW_TABLE have no bytes in common (R76: "No two rows have the same bytes"). -/
abbrev distinctKeywords (rows : List KwRow) : Prop := (rows.map KwRow.keyword).Nodup

/-- What R8, R23 to R26, R76 and R190 say holds of the block's state at every moment. -/
structure State.Inv (s : State) : Prop where
  /-- R23, R190: the address held is legal. -/
  addrLegal : legalAddr s.cfgAddr = true
  /-- R7, R230: so is the one reset gives. -/
  resetLegal : legalAddr s.config.addrReset = true
  /-- R8. -/
  roomForFrame : s.config.rxCap + 2 ≤ s.config.operandMax
  /-- R24: `0 <= len(RX_BUF) <= RX_CAP`. -/
  bufFits : s.rxBuf.length ≤ s.config.rxCap
  /-- R24: RX_BUF holds no terminator. -/
  bufOpen : ∀ b ∈ s.rxBuf, isTerminator b = false
  /-- R25: a byte is dropped only when RX_BUF is full. -/
  ovfFull : s.rxOvf = true → s.rxBuf.length = s.config.rxCap
  /-- R26: right after a frame-ending CR the assembler is empty. -/
  prevCrEmpty : s.rxPrevCr = true → s.rxBuf = [] ∧ s.rxOvf = false
  /-- R76. -/
  keywordsDistinct : distinctKeywords s.kwTable

/-- R121: a clean token for a whitespace set. -/
abbrev cleanToken (ws : Bytes) (t : Bytes) : Prop :=
  t ≠ [] ∧ ∀ b ∈ t, isSpace ws b = false ∧ isTerminator b = false ∧ b ≠ questionMark

/-- The instruction is one of the three that change state (R49). -/
def changesState : Instr → Bool
  | .rxPush _ => true
  | .rxReset => true
  | .cfgSetAddr _ => true
  | .swEncode _ => false
  | .swDecode _ => false
  | .cmdEncode _ _ _ => false
  | .frameParse _ => false
  | .respFormat _ => false
  | .respParse _ => false
  | .errDesc _ => false
  | .decToU16 _ => false
  | .cfgGetAddr => false
  | .reserved _ => false
  | .kwBC => false
  | .kwDC => false
  | .kwDT => false
  | .kwDW => false
  | .kwEC => false
  | .kwEM => false
  | .kwEN => false
  | .kwFL => false
  | .kwPE => false
  | .kwPM => false
  | .kwRC => false
  | .kwSV => false
  | .kwRR => false
  | .kwUC => false
  | .kwRS => false
  | .kwBV => false
  | .kwFT => false
  | .kwFV => false
  | .kwID => false
  | .kwIM => false
  | .kwLS => false
  | .kwPEMin => false
  | .kwPEMax => false
  | .kwRRMin => false
  | .kwRRMax => false
  | .kwSC => false
  | .kwSS => false
  | .kwTRMin => false
  | .kwTRMax => false
  | .kwDCMin => false

/-- R165: `text` is a response line with this body: CR LF, a lone CR or a lone LF ends it. (A final CR LF is one terminator, so a
body that ends in CR is not followed by a lone LF.) -/
abbrev lineWithBody (body text : Bytes) : Prop :=
  text = body ++ [cr, lf] ∨ text = body ++ [cr] ∨ (text = body ++ [lf] ∧ body.getLast? ≠ some cr)

/-- R9, R175: the number a string of decimal digits writes, exact and unbounded. -/
def decimalValue (digits : Bytes) : Nat := digits.foldl (fun v b => 10 * v + (b.toNat - 0x30)) 0

/-- R123: what precedes the payload of a frame for the configured address. -/
def State.header (s : State) : Bytes := [semicolon] ++ s.cfgAddr.bytes ++ [colon]

/-- The host issues these bytes to RX_PUSH, one request per byte, in wire order (R50). -/
def pushes (stream : Bytes) : List HostInput := stream.map fun c => .issue (.request { op := 0x8, byte := c })

/-- `k` steps, one after another (R42), up to the first that stops. -/
def stepTimes : Nat → State → Result
  | 0, s => .next s
  | k + 1, s =>
    match step s with
    | .next t => stepTimes k t
    | .fault r => .fault r
    | .refused r => .refused r

/-- The outcome is a next state: the machine has not stopped. -/
def goesOn : Result → Bool
  | .next _ => true
  | .fault _ => false
  | .refused _ => false

end Sys2Proof.Machine
end

