-- ==== Sys2Proof/Certificates/Slice0/Obligations.lean ====
section
/-! DEFINITION. The statements for the provers, from the numbered rules of spec/. A response `r` on the port and nothing else changed
is written `s.respond r`, so a statement whose conclusion is `.next (s.respond r)` is the instruction's result, its completion and its
frame at once. -/

open Sys2Proof Sys2Proof.Machine

/-! ### Encodings -/

/-- R61: the selector map, the operand fields of R62 with it, and sample keyword words of R75. -/
def Obligations.SelectorAndKeywordWordsDecode : Prop :=
  (∀ f, decode (.request { op := 0x0, f := f }) = .ok (.swEncode f)) ∧
  (∀ w, decode (.request { op := 0x1, w := w }) = .ok (.swDecode w)) ∧
  (∀ a kw g, decode (.request { op := 0x2, a := a, kw := kw, g := g }) = .ok (.cmdEncode a kw g)) ∧
  (∀ t, decode (.request { op := 0x3, s := t }) = .ok (.frameParse t)) ∧
  (∀ t, decode (.request { op := 0x4, k := 1, s := t }) = .ok (.respFormat (.valueText t))) ∧
  (∀ t, decode (.request { op := 0x5, s := t }) = .ok (.respParse t)) ∧
  (∀ e, decode (.request { op := 0x6, e := e }) = .ok (.errDesc e)) ∧
  (∀ t, decode (.request { op := 0x7, s := t }) = .ok (.decToU16 t)) ∧
  (∀ c, decode (.request { op := 0x8, byte := c }) = .ok (.rxPush c)) ∧
  decode (.request { op := 0x9 }) = .ok .rxReset ∧
  (∀ a, decode (.request { op := 0xA, a := a }) = .ok (.cfgSetAddr a)) ∧
  decode (.request { op := 0xB }) = .ok .cfgGetAddr ∧
  decode (.request { op := 0xC }) = .ok (.reserved 0xC) ∧
  decode (.request { op := 0xF }) = .ok (.reserved 0xF) ∧
  decodeTableWord 16 0x4243 = some .kwBC ∧
  decodeTableWord 16 0x5253 = some .kwRS ∧
  decodeTableWord 48 0x44433A4D494E = some .kwDCMin

/-- R60: two requests with the same selector that agree on the fields their operation reads (R62) are the same instruction. -/
def Obligations.UnnamedRequestFieldsAreIgnored : Prop :=
  ∀ r q : Request, r.op = q.op →
    (r.op = 0x0 → r.f = q.f) →
    (r.op = 0x1 → r.w = q.w) →
    (r.op = 0x2 → r.a = q.a ∧ r.kw = q.kw ∧ r.g = q.g) →
    (r.op = 0x3 ∨ r.op = 0x5 ∨ r.op = 0x7 → r.s = q.s) →
    (r.op = 0x4 → r.k = q.k ∧ (r.k = 1 → r.s = q.s) ∧ (r.k = 2 → r.w = q.w) ∧ (r.k = 3 → r.e = q.e)) →
    (r.op = 0x6 → r.e = q.e) →
    (r.op = 0x8 → r.byte = q.byte) →
    (r.op = 0xA → r.a = q.a) →
    decode (.request r) = decode (.request q)

/-- Every well-formed instruction, with every operand at every value, is read back from its encoding. -/
def Obligations.DecodeReadsBackEveryEncoding : Prop :=
  ∀ i : Instr, i.wellFormed = true → decode (encode i) = .ok i

/-- R76: bytes decode to an instruction exactly when they are that instruction's keyword; no two rows share their bytes. -/
def Obligations.KeywordBytesHaveOneMeaning : Prop :=
  ∀ (t : Bytes) (i : Instr), decode (.keyword t) = .ok i ↔ encode i = .keyword t

/-! ### Steps and reset -/

/-- A step carries out the instruction whose encoding the host issues next, the later inputs still waiting; with no input the block
does nothing. (Model's choice of how a request reaches the block: log entry 3.) -/
def Obligations.StepRunsTheDecodedInstruction : Prop :=
  (∀ (s : State) (i : Instr) (rest : List HostInput), i.wellFormed = true → s.inputs = .issue (encode i) :: rest →
    step s = exec i { s with inputs := rest }) ∧
  (∀ (s : State) (r : Request) (i : Instr) (rest : List HostInput), decode (.request r) = .ok i →
    s.inputs = .issue (.request r) :: rest → step s = exec i { s with inputs := rest }) ∧
  (∀ s : State, s.inputs = [] → step s = .next s)

/-- R230: the state after reset. -/
def Obligations.ResetLeavesTheStatedValues : Prop :=
  State.reset.cfgAddr.bytes = [0x4C, 0x41] ∧ State.reset.rxBuf = [] ∧ State.reset.rxOvf = false ∧
    State.reset.rxPrevCr = false ∧ State.reset.kwTable = keywordTable

/-- R231 with the values of R230: the reset input between two operations loses the partial frame, gives CFG_ADDR, RX_BUF, RX_OVF and
RX_PREV_CR their reset values and leaves KW_TABLE. That it is the host's next waiting input (log entry 3), that the later inputs stay, and
that the view of the port is then empty (log entry 7) are the model's choices. -/
def Obligations.ResetInputRestoresTheResetState : Prop :=
  ∀ (s : State) (rest : List HostInput), s.inputs = .reset :: rest →
    step s = .next { s with
      cfgAddr := s.config.addrReset, rxBuf := [], rxOvf := false, rxPrevCr := false, inputs := rest, response := none }

/-- R75: the 30 rows of KW_TABLE, keyword bytes and class; a keyword not in the table has class UNKNOWN (`none`). -/
def Obligations.KeywordTableHoldsTheThirtyRows : Prop :=
  keywordTable =
    [⟨[0x42, 0x43], .arg⟩, ⟨[0x44, 0x43], .arg⟩, ⟨[0x44, 0x54], .arg⟩, ⟨[0x44, 0x57], .arg⟩, ⟨[0x45, 0x43], .arg⟩,
      ⟨[0x45, 0x4D], .arg⟩, ⟨[0x45, 0x4E], .arg⟩, ⟨[0x46, 0x4C], .arg⟩, ⟨[0x50, 0x45], .arg⟩, ⟨[0x50, 0x4D], .arg⟩,
      ⟨[0x52, 0x43], .arg⟩, ⟨[0x53, 0x56], .arg⟩, ⟨[0x52, 0x52], .arg⟩, ⟨[0x55, 0x43], .arg⟩] ++
    [⟨[0x52, 0x53], .only⟩] ++
    [⟨[0x42, 0x56], .qonly⟩, ⟨[0x46, 0x54], .qonly⟩, ⟨[0x46, 0x56], .qonly⟩, ⟨[0x49, 0x44], .qonly⟩, ⟨[0x49, 0x4D], .qonly⟩,
      ⟨[0x4C, 0x53], .qonly⟩, ⟨[0x50, 0x45, 0x3A, 0x4D, 0x49, 0x4E], .qonly⟩, ⟨[0x50, 0x45, 0x3A, 0x4D, 0x41, 0x58], .qonly⟩,
      ⟨[0x52, 0x52, 0x3A, 0x4D, 0x49, 0x4E], .qonly⟩, ⟨[0x52, 0x52, 0x3A, 0x4D, 0x41, 0x58], .qonly⟩, ⟨[0x53, 0x43], .qonly⟩,
      ⟨[0x53, 0x53], .qonly⟩, ⟨[0x54, 0x52, 0x3A, 0x4D, 0x49, 0x4E], .qonly⟩, ⟨[0x54, 0x52, 0x3A, 0x4D, 0x41, 0x58], .qonly⟩,
      ⟨[0x44, 0x43, 0x3A, 0x4D, 0x49, 0x4E], .qonly⟩] ∧
  ∀ t : Bytes, (∀ row ∈ keywordTable, row.keyword ≠ t) → keywordClass keywordTable t = none

/-- R76: no two rows have the same bytes; where that is so, `class(t)` is the class of the row whose bytes are exactly `t`, and UNKNOWN where there
is none. -/
def Obligations.KeywordLookupIsExact : Prop :=
  distinctKeywords keywordTable ∧ ∀ (rows : List KwRow) (t : Bytes), distinctKeywords rows →
    (∀ c, keywordClass rows t = some c ↔ (⟨t, c⟩ : KwRow) ∈ rows) ∧
    (keywordClass rows t = none ↔ ∀ row ∈ rows, row.keyword ≠ t)

/-! ### Status word -/

/-- R100, R101: SW_ENCODE sets exactly the bits of the flags that are 1, and the reserved bits 2, 4, 5, 14 and 15 are 0. -/
def Obligations.SwEncodePacksTheNamedFlags : Prop :=
  ∀ (f : Flags) (s : State), ∃ w : Word16,
    exec (.swEncode f) s = .next (s.respond { st := .done, w := some w }) ∧
    w.getLsbD 0 = f.laserEnabled ∧ w.getLsbD 1 = f.laserActive ∧ w.getLsbD 2 = false ∧
    w.getLsbD 3 = f.diodeExtTrigger ∧ w.getLsbD 4 = false ∧ w.getLsbD 5 = false ∧
    w.getLsbD 6 = f.extInterlock ∧ w.getLsbD 7 = f.resonatorOverTemp ∧ w.getLsbD 8 = f.electricalOverTemp ∧
    w.getLsbD 9 = f.powerFailure ∧ w.getLsbD 10 = f.readyToEnable ∧ w.getLsbD 11 = f.readyToFire ∧
    w.getLsbD 12 = f.lowPowerMode ∧ w.getLsbD 13 = f.highPowerMode ∧ w.getLsbD 14 = false ∧ w.getLsbD 15 = false

/-- R100, R102: SW_DECODE reads each named flag from its bit, for any value of `W`. -/
def Obligations.SwDecodeReadsTheNamedBits : Prop :=
  ∀ (w : Word16) (s : State),
    exec (.swDecode w) s = .next (s.respond
      { st := .done,
        f := some
          { laserEnabled := w.getLsbD 0, laserActive := w.getLsbD 1, diodeExtTrigger := w.getLsbD 3,
            extInterlock := w.getLsbD 6, resonatorOverTemp := w.getLsbD 7, electricalOverTemp := w.getLsbD 8,
            powerFailure := w.getLsbD 9, readyToEnable := w.getLsbD 10, readyToFire := w.getLsbD 11,
            lowPowerMode := w.getLsbD 12, highPowerMode := w.getLsbD 13 } })

/-- R102: the result is the same for `W` and `W ^ r` for every `r` that touches only reserved bits. -/
def Obligations.SwDecodeIgnoresReservedBits : Prop :=
  ∀ (w r : Word16) (s : State), r &&& 0x3FCB = 0 → exec (.swDecode (w ^^^ r)) s = exec (.swDecode w) s

/-- R103: both round trips of the status codec. -/
def Obligations.StatusWordRoundTrips : Prop :=
  (∀ (x : Word16) (s : State), ∃ f : Flags,
    exec (.swDecode x) s = .next (s.respond { st := .done, f := some f }) ∧
    (∀ t : State, exec (.swEncode f) t = .next (t.respond { st := .done, w := some (x &&& 0x3FCB) })) ∧
    (x &&& 0xC034 = 0 → ∀ t : State, exec (.swEncode f) t = .next (t.respond { st := .done, w := some x }))) ∧
  (∀ (f : Flags) (s : State), ∃ w : Word16,
    exec (.swEncode f) s = .next (s.respond { st := .done, w := some w }) ∧
    ∀ t : State, exec (.swDecode w) t = .next (t.respond { st := .done, f := some f }))

/-- R104: whatever the order in which the named flags are visited, SW_ENCODE answers the same word, and it is the sum of the values of
the flags that are 1. -/
def Obligations.FlagOrderDoesNotMatter : Prop :=
  ∀ (f : Flags) (order : List Flag) (s : State), order.Perm flagOrder →
    exec (.swEncode f) s = .next (s.respond { st := .done, w := some (packOver f order 0) }) ∧
    (packOver f order 0).toNat = ((order.filter (getFlag f)).map (fun n => 2 ^ flagBit n)).sum

/-! ### Building a command frame -/

/-- R120: CMD_ENCODE, its frame and its faults, with the priority of R203. -/
def Obligations.CmdEncodeBuildsTheFrame : Prop :=
  ∀ (a kw : Bytes) (g : Option Bytes) (s : State),
    let long := fun x : Bytes => s.config.operandMax < x.length
    let arg : Bytes := match g with
      | some (b :: bs) => 0x20 :: b :: bs
      | _ => []
    let frame : Bytes := [0x3B] ++ a ++ [0x3A] ++ kw ++ arg ++ [0x0D]
    ((long a ∨ long kw ∨ ∃ x, g = some x ∧ long x) →
      exec (.cmdEncode a kw g) s = .next (s.respond { st := .fault .operandTooLong })) ∧
    (¬ long a → ¬ long kw → (∀ x, g = some x → ¬ long x) →
      (kw = [] → exec (.cmdEncode a kw g) s = .next (s.respond { st := .fault .malformedCommand })) ∧
      (kw ≠ [] → long frame → exec (.cmdEncode a kw g) s = .next (s.respond { st := .fault .operandTooLong })) ∧
      (kw ≠ [] → ¬ long frame → exec (.cmdEncode a kw g) s = .next (s.respond { st := .done, out := some frame })))

/-- R121: a frame CMD_ENCODE builds for the configured address from clean tokens is tokenized back to what it was built from. The address
is legal, as it always is (R190), and the space CMD_ENCODE writes is in `WS`. -/
def Obligations.BuiltFrameParsesBack : Prop :=
  ∀ (s : State) (kw out : Bytes) (g : Option Bytes),
    legalAddr s.cfgAddr = true → isSpace s.config.ws 0x20 = true →
    exec (.cmdEncode s.cfgAddr.bytes kw g) s = .next (s.respond { st := .done, out := some out }) →
    (∀ x, g = some x → cleanToken s.config.ws kw → cleanToken s.config.ws x →
      exec (.frameParse out) s = .next (s.respond
        { st := .done, rxr := some .frame, frKind := some .actionArg, frAddr := some s.cfgAddr, frKw := some kw,
          frArg := some (some x) })) ∧
    (∀ k, g = none → kw = k ++ [0x3F] → cleanToken s.config.ws k →
      exec (.frameParse out) s = .next (s.respond
        { st := .done, rxr := some .frame, frKind := some .query, frAddr := some s.cfgAddr, frKw := some k,
          frArg := some none })) ∧
    (g = none → cleanToken s.config.ws kw → keywordClass s.kwTable kw = some .only →
      exec (.frameParse out) s = .next (s.respond
        { st := .done, rxr := some .frame, frKind := some .actionOnly, frAddr := some s.cfgAddr, frKw := some kw,
          frArg := some none }))

/-! ### Tokenizing a command frame -/

/-- R122: FRAME_PARSE answers what `parse` gives for the configured address; a parse error is a result. -/
def Obligations.FrameParseAnswersTheParse : Prop :=
  ∀ (text : Bytes) (s : State),
    (s.config.operandMax < text.length → exec (.frameParse text) s = .next (s.respond { st := .fault .operandTooLong })) ∧
    (text.length ≤ s.config.operandMax →
      (∀ kind addr kw arg, parse s.config.ws s.kwTable s.cfgAddr text = .frame kind addr kw arg →
        exec (.frameParse text) s = .next (s.respond
          { st := .done, rxr := some .frame, frKind := some kind, frAddr := some addr, frKw := some kw, frArg := some arg })) ∧
      (∀ reason, parse s.config.ws s.kwTable s.cfgAddr text = .perr reason →
        exec (.frameParse text) s = .next (s.respond
          { st := .done, rxr := some .perr, peReason := some reason, pcode := some reason.pcode })))

/-- R69: the reasons, their codes and the protocol error number each maps to. -/
def Obligations.ParseReasonCodesAndProtocolErrors : Prop :=
  (ParseReason.addressMismatch.code = 1 ∧ ParseReason.addressMismatch.pcode = 1) ∧
  (ParseReason.incomplete.code = 2 ∧ ParseReason.incomplete.pcode = 1) ∧
  (ParseReason.missingKeyword.code = 3 ∧ ParseReason.missingKeyword.pcode = 2) ∧
  (ParseReason.unrecognizedKeyword.code = 4 ∧ ParseReason.unrecognizedKeyword.pcode = 3) ∧
  (ParseReason.missingParameter.code = 5 ∧ ParseReason.missingParameter.pcode = 5) ∧
  (ParseReason.queryOnlyAsAction.code = 6 ∧ ParseReason.queryOnlyAsAction.pcode = 6) ∧
  (ParseReason.rxOverflow.code = 7 ∧ ParseReason.rxOverflow.pcode = 1) ∧
  (∀ reason : ParseReason, reason.pcode ≠ 4 ∧ reason.pcode ≠ 7 ∧ reason.pcode ≠ 8)

/-- R11: `find_first(s, X)` is the least index whose byte is in X, or NONE. -/
def Obligations.FindFirstIsTheLeastIndex : Prop :=
  ∀ (inX : Byte → Bool) (text : Bytes),
    (∀ i, findFirst inX text = some i ↔
      ∃ b, text[i]? = some b ∧ inX b = true ∧ ∀ j < i, ∀ c, text[j]? = some c → inX c = false) ∧
    (findFirst inX text = none ↔ ∀ b ∈ text, inX b = false)

/-- R11: `tokens(s)` are the maximal non-empty substrings with no byte of WS, in order: no token is empty or holds whitespace, a
whitespace byte separates what is before it from what is after it, and a text without whitespace is one token. -/
def Obligations.TokensAreTheMaximalRuns : Prop :=
  ∀ ws : Bytes,
    tokens ws [] = [] ∧
    (∀ text, ∀ t ∈ tokens ws text, t ≠ [] ∧ ∀ b ∈ t, b ∉ ws) ∧
    (∀ text, text ≠ [] → (∀ b ∈ text, b ∉ ws) → tokens ws text = [text]) ∧
    (∀ before after b, b ∈ ws → tokens ws (before ++ b :: after) = tokens ws before ++ tokens ws after)

/-- R123: the part before the first `:` must be exactly `;` and the configured address, and a frame with no `:` has no such part; where
it is so, what stands after that `:` is parsed. -/
def Obligations.FrameMustCarryTheConfiguredAddress : Prop :=
  ∀ (text : Bytes) (s : State), text.length ≤ s.config.operandMax →
    (((∀ b ∈ text, b ≠ 0x3A) ∨
        (∃ before rem, text = before ++ 0x3A :: rem ∧ (∀ b ∈ before, b ≠ 0x3A) ∧ before ≠ [0x3B] ++ s.cfgAddr.bytes)) →
      exec (.frameParse text) s = .next (s.respond
        { st := .done, rxr := some .perr, peReason := some .addressMismatch, pcode := some 1 })) ∧
    (∀ rem, legalAddr s.cfgAddr = true → text = [0x3B] ++ s.cfgAddr.bytes ++ 0x3A :: rem →
      exec (.frameParse text) s = .next (s.respond
        (frameResponse (parseRemainder s.config.ws s.kwTable s.cfgAddr rem))))

/-- R124: after the address, a remainder with no CR or LF is INCOMPLETE, and otherwise the payload is what stands before the first of
them: neither which terminator it is nor what follows it matters. -/
def Obligations.PayloadEndsAtTheFirstTerminator : Prop :=
  ∀ (s : State), legalAddr s.cfgAddr = true →
    (∀ rem, (∀ b ∈ rem, b ≠ 0x0D ∧ b ≠ 0x0A) → (s.header ++ rem).length ≤ s.config.operandMax →
      exec (.frameParse (s.header ++ rem)) s = .next (s.respond
        { st := .done, rxr := some .perr, peReason := some .incomplete, pcode := some 1 })) ∧
    (∀ payload c after, (∀ b ∈ payload, b ≠ 0x0D ∧ b ≠ 0x0A) → (c = 0x0D ∨ c = 0x0A) →
      (s.header ++ payload ++ c :: after).length ≤ s.config.operandMax →
      exec (.frameParse (s.header ++ payload ++ c :: after)) s = .next (s.respond
        (frameResponse (parsePayload s.config.ws s.kwTable s.cfgAddr payload))))

/-- R125: a payload with `?` is judged by the tokens before the first `?` and by those after it. -/
def Obligations.QueryFormIsOneKeywordBeforeTheMark : Prop :=
  ∀ (s : State) (before after tail : Bytes) (c : Byte),
    let text := s.header ++ before ++ 0x3F :: after ++ c :: tail
    let ts := tokens s.config.ws before
    let us := tokens s.config.ws after
    legalAddr s.cfgAddr = true → text.length ≤ s.config.operandMax →
    (∀ b ∈ before, b ≠ 0x0D ∧ b ≠ 0x0A ∧ b ≠ 0x3F) → (∀ b ∈ after, b ≠ 0x0D ∧ b ≠ 0x0A) → (c = 0x0D ∨ c = 0x0A) →
    (ts = [] → exec (.frameParse text) s = .next (s.respond
      { st := .done, rxr := some .perr, peReason := some .missingKeyword, pcode := some 2 })) ∧
    (2 ≤ ts.length ∨ (ts ≠ [] ∧ us ≠ []) → exec (.frameParse text) s = .next (s.respond
      { st := .done, rxr := some .perr, peReason := some .unrecognizedKeyword, pcode := some 3 })) ∧
    (∀ t, ts = [t] → us = [] → exec (.frameParse text) s = .next (s.respond
      { st := .done, rxr := some .frame, frKind := some .query, frAddr := some s.cfgAddr, frKw := some t, frArg := some none }))

/-- R126: a payload without `?` is classified by the number of its tokens and, for one token, by the keyword's class. -/
def Obligations.ActionFormIsClassifiedByItsTokens : Prop :=
  ∀ (s : State) (payload tail : Bytes) (c : Byte),
    let text := s.header ++ payload ++ c :: tail
    let ts := tokens s.config.ws payload
    legalAddr s.cfgAddr = true → text.length ≤ s.config.operandMax →
    (∀ b ∈ payload, b ≠ 0x0D ∧ b ≠ 0x0A ∧ b ≠ 0x3F) → (c = 0x0D ∨ c = 0x0A) →
    (ts = [] → exec (.frameParse text) s = .next (s.respond
      { st := .done, rxr := some .perr, peReason := some .missingKeyword, pcode := some 2 })) ∧
    (∀ t, ts = [t] →
      (keywordClass s.kwTable t = some .only → exec (.frameParse text) s = .next (s.respond
        { st := .done, rxr := some .frame, frKind := some .actionOnly, frAddr := some s.cfgAddr, frKw := some t,
          frArg := some none })) ∧
      (keywordClass s.kwTable t = some .arg → exec (.frameParse text) s = .next (s.respond
        { st := .done, rxr := some .perr, peReason := some .missingParameter, pcode := some 5 })) ∧
      (keywordClass s.kwTable t = some .qonly → exec (.frameParse text) s = .next (s.respond
        { st := .done, rxr := some .perr, peReason := some .queryOnlyAsAction, pcode := some 6 })) ∧
      (keywordClass s.kwTable t = none → exec (.frameParse text) s = .next (s.respond
        { st := .done, rxr := some .perr, peReason := some .unrecognizedKeyword, pcode := some 3 }))) ∧
    (∀ t u, ts = [t, u] → exec (.frameParse text) s = .next (s.respond
      { st := .done, rxr := some .frame, frKind := some .actionArg, frAddr := some s.cfgAddr, frKw := some t,
        frArg := some (some u) })) ∧
    (3 ≤ ts.length → exec (.frameParse text) s = .next (s.respond
      { st := .done, rxr := some .perr, peReason := some .unrecognizedKeyword, pcode := some 3 }))

/-- R129: the laws of `parse`, for a legal address. -/
def Obligations.ParseLaws : Prop :=
  ∀ (ws : Bytes) (kwTable : List KwRow) (addr : Addr), legalAddr addr = true →
    (∀ p, (∀ b ∈ p, b ≠ 0x0D ∧ b ≠ 0x0A) →
      parse ws kwTable addr (p ++ [0x0D]) = parse ws kwTable addr (p ++ [0x0A]) ∧
      parse ws kwTable addr (p ++ [0x0D]) = parse ws kwTable addr (p ++ [0x0D, 0x0A])) ∧
    (∀ text c after, (c = 0x0D ∨ c = 0x0A) →
      parse ws kwTable addr (text ++ [c] ++ after) = parse ws kwTable addr (text ++ [c])) ∧
    (∀ text kind a kw arg, parse ws kwTable addr text = .frame kind a kw arg →
      a = addr ∧ cleanToken ws kw ∧ (kind = .actionArg → ∃ x, arg = some x ∧ cleanToken ws x) ∧
      (kind ≠ .actionArg → arg = none)) ∧
    (∀ text reason, parse ws kwTable addr text = .perr reason → reason.pcode ∈ [1, 2, 3, 5, 6])

/-! ### The keywords of KW_TABLE as one-token commands -/

/-- A keyword instruction is the FRAME_PARSE of its one-token action frame. (What a KW row of the opcode table does as an instruction is
the model's choice: log entry 2.) -/
def Obligations.KeywordCommandIsItsOneTokenFrame : Prop :=
  ∀ (i : Instr) (t : Bytes) (s : State), encode i = .keyword t →
    exec i s = exec (.frameParse ([0x3B] ++ s.cfgAddr.bytes ++ [0x3A] ++ t ++ [0x0D])) s

/-- R126 on the ARG rows of R75: each such keyword alone is a MISSING_PARAMETER, `?5`. -/
def Obligations.ArgKeywordAloneMissesItsParameter : Prop :=
  ∀ (s : State), legalAddr s.cfgAddr = true → s.kwTable = keywordTable → s.config.ws = [0x09, 0x0B, 0x0C, 0x20] →
    11 ≤ s.config.operandMax →
    ∀ i ∈ [Instr.kwBC, .kwDC, .kwDT, .kwDW, .kwEC, .kwEM, .kwEN, .kwFL, .kwPE, .kwPM, .kwRC, .kwSV, .kwRR, .kwUC],
      exec i s = .next (s.respond
        { st := .done, rxr := some .perr, peReason := some .missingParameter, pcode := some 5 })

/-- R126 on the ONLY row of R75, and R232: `RS` alone is accepted, and it resets nothing of the block. -/
def Obligations.RsAloneIsAcceptedAndResetsNothing : Prop :=
  ∀ (s : State), legalAddr s.cfgAddr = true → s.kwTable = keywordTable → s.config.ws = [0x09, 0x0B, 0x0C, 0x20] →
    11 ≤ s.config.operandMax →
    exec .kwRS s = .next (s.respond
      { st := .done, rxr := some .frame, frKind := some .actionOnly, frAddr := some s.cfgAddr, frKw := some [0x52, 0x53],
        frArg := some none })

/-- R126 on the QONLY rows of R75: each such keyword alone is a QUERY_ONLY_AS_ACTION, `?6`. -/
def Obligations.QueryOnlyKeywordAloneNeedsTheMark : Prop :=
  ∀ (s : State), legalAddr s.cfgAddr = true → s.kwTable = keywordTable → s.config.ws = [0x09, 0x0B, 0x0C, 0x20] →
    11 ≤ s.config.operandMax →
    ∀ i ∈ [Instr.kwBV, .kwFT, .kwFV, .kwID, .kwIM, .kwLS, .kwPEMin, .kwPEMax, .kwRRMin, .kwRRMax, .kwSC, .kwSS, .kwTRMin,
        .kwTRMax, .kwDCMin],
      exec i s = .next (s.respond
        { st := .done, rxr := some .perr, peReason := some .queryOnlyAsAction, pcode := some 6 })

/-! ### The frame assembler -/

/-- R130: RX_PUSH, by the byte and the assembler's state. -/
def Obligations.RxPushCollectsAndEndsFrames : Prop :=
  ∀ (c : Byte) (s : State),
    (c = 0x0A → s.rxPrevCr = true →
      exec (.rxPush c) s = .next ({ s with rxPrevCr := false }.respond { st := .done, rxr := some .noFrame })) ∧
    ((c = 0x0D ∨ (c = 0x0A ∧ s.rxPrevCr = false)) → s.rxOvf = true →
      exec (.rxPush c) s = .next ({ s with rxBuf := [], rxOvf := false, rxPrevCr := decide (c = 0x0D) }.respond
        { st := .done, rxr := some .perr, peReason := some .rxOverflow, pcode := some 1 })) ∧
    ((c = 0x0D ∨ (c = 0x0A ∧ s.rxPrevCr = false)) → s.rxOvf = false →
      exec (.rxPush c) s = .next ({ s with rxBuf := [], rxOvf := false, rxPrevCr := decide (c = 0x0D) }.respond
        (frameResponse (parse s.config.ws s.kwTable s.cfgAddr (s.rxBuf ++ [c]))))) ∧
    (c ≠ 0x0D → c ≠ 0x0A → s.rxBuf.length < s.config.rxCap →
      exec (.rxPush c) s = .next ({ s with rxPrevCr := false, rxBuf := s.rxBuf ++ [c] }.respond
        { st := .done, rxr := some .noFrame })) ∧
    (c ≠ 0x0D → c ≠ 0x0A → s.config.rxCap ≤ s.rxBuf.length →
      exec (.rxPush c) s = .next ({ s with rxPrevCr := false, rxOvf := true }.respond
        { st := .done, rxr := some .noFrame }))

/-- R131: RX_RESET abandons a partial frame; CFG_ADDR is unchanged. -/
def Obligations.RxResetEmptiesTheAssembler : Prop :=
  ∀ s : State, exec .rxReset s = .next ({ s with rxBuf := [], rxOvf := false, rxPrevCr := false }.respond { st := .done })

/-- R132: from an empty assembler, pushing a frame that fits answers NONE for each byte of it, the parse of the whole frame on the first
byte of its terminator, the same as FRAME_PARSE, and NONE on the LF of a CR LF, and leaves the assembler empty. (That the bytes are the
host's waiting inputs is the model's choice: log entry 3.) -/
def Obligations.AssemblerAgreesWithFrameParse : Prop :=
  ∀ (s : State) (p term : Bytes) (rest : List HostInput),
    s.rxBuf = [] → s.rxOvf = false → p ≠ [] → (∀ b ∈ p, b ≠ 0x0D ∧ b ≠ 0x0A) → p.length ≤ s.config.rxCap →
    (term = [0x0D] ∨ term = [0x0A] ∨ term = [0x0D, 0x0A]) → s.inputs = pushes (p ++ term) ++ rest →
    (∀ k, 1 ≤ k → k ≤ p.length → stepTimes k s = .next { s with
      rxBuf := p.take k, rxPrevCr := false, inputs := pushes (p.drop k ++ term) ++ rest,
      response := some { st := .done, rxr := some .noFrame } }) ∧
    stepTimes (p.length + 1) s = .next { s with
      rxBuf := [], rxPrevCr := decide (term ≠ [0x0A]), inputs := pushes term.tail ++ rest,
      response := some (frameResponse (parse s.config.ws s.kwTable s.cfgAddr (p ++ term))) } ∧
    (term = [0x0D, 0x0A] → stepTimes (p.length + 2) s = .next { s with
      rxBuf := [], rxPrevCr := false, inputs := rest, response := some { st := .done, rxr := some .noFrame } }) ∧
    ((p ++ term).length ≤ s.config.operandMax → exec (.frameParse (p ++ term)) s = .next (s.respond
      (frameResponse (parse s.config.ws s.kwTable s.cfgAddr (p ++ term)))))

/-- R242: a frame longer than RX_CAP ends as RX_OVERFLOW, `?1`, at its terminator, and the assembler is then empty with the overflow
forgotten, so the next frame is unaffected. (That the bytes are the host's waiting inputs is the model's choice: log entry 3.) -/
def Obligations.OverlongFrameEndsAsOverflow : Prop :=
  ∀ (s : State) (p : Bytes) (c : Byte) (rest : List HostInput),
    s.rxBuf = [] → s.rxOvf = false → (∀ b ∈ p, b ≠ 0x0D ∧ b ≠ 0x0A) → s.config.rxCap < p.length →
    (c = 0x0D ∨ c = 0x0A) → s.inputs = pushes (p ++ [c]) ++ rest →
    stepTimes p.length s = .next { s with
      rxBuf := p.take s.config.rxCap, rxOvf := true, rxPrevCr := false, inputs := pushes [c] ++ rest,
      response := some { st := .done, rxr := some .noFrame } } ∧
    stepTimes (p.length + 1) s = .next { s with
      rxBuf := [], rxOvf := false, rxPrevCr := decide (c = 0x0D), inputs := rest,
      response := some { st := .done, rxr := some .perr, peReason := some .rxOverflow, pcode := some 1 } }

/-- R240: a frame is parsed against the address held when its terminator arrives: one set between two bytes of the frame counts. (That
the requests are the host's waiting inputs is the model's choice: log entry 3.) -/
def Obligations.FrameIsCheckedAgainstTheAddressAtItsEnd : Prop :=
  ∀ (s : State) (x y c : Byte) (rest : List HostInput),
    legalAddr ⟨x, y⟩ = true → 2 ≤ s.config.operandMax → s.rxOvf = false →
    (c = 0x0D ∨ (c = 0x0A ∧ s.rxPrevCr = false)) →
    s.inputs = .issue (.request { op := 0xA, a := [x, y] }) :: pushes [c] ++ rest →
    stepTimes 2 s = .next { s with
      cfgAddr := ⟨x, y⟩, rxBuf := [], rxPrevCr := decide (c = 0x0D), inputs := rest,
      response := some (frameResponse (parse s.config.ws s.kwTable ⟨x, y⟩ (s.rxBuf ++ [c]))) }

/-! ### Responses -/

/-- R160: RESP_FORMAT, its line and its faults, by its kind. -/
def Obligations.RespFormatWritesTheLine : Prop :=
  ∀ s : State,
    exec (.respFormat .ok) s = .next (s.respond { st := .done, out := some [0x4F, 0x4B, 0x0D, 0x0A] }) ∧
    (∀ text : Bytes, s.config.operandMax < text.length →
      exec (.respFormat (.valueText text)) s = .next (s.respond { st := .fault .operandTooLong })) ∧
    (∀ text : Bytes, text.length ≤ s.config.operandMax →
      (text = [] ∨ 0x0D ∈ text ∨ 0x0A ∈ text ∨ text.head? = some 0x3F ∨ text = [0x4F, 0x4B] ∨ text = [0x6F, 0x6B]) →
      exec (.respFormat (.valueText text)) s = .next (s.respond { st := .fault .badValue })) ∧
    (∀ text : Bytes, text.length ≤ s.config.operandMax → text ≠ [] → 0x0D ∉ text → 0x0A ∉ text → text.head? ≠ some 0x3F →
      text ≠ [0x4F, 0x4B] → text ≠ [0x6F, 0x6B] →
      (s.config.operandMax < text.length + 2 →
        exec (.respFormat (.valueText text)) s = .next (s.respond { st := .fault .operandTooLong })) ∧
      (text.length + 2 ≤ s.config.operandMax →
        exec (.respFormat (.valueText text)) s = .next (s.respond { st := .done, out := some (text ++ [0x0D, 0x0A]) }))) ∧
    (∀ w, exec (.respFormat (.valueU16 w)) s = .next (s.respond { st := .done, out := some (dec16 w ++ [0x0D, 0x0A]) })) ∧
    (∀ e : BitVec 4, 1 ≤ e.toNat → e.toNat ≤ 8 → exec (.respFormat (.error e)) s = .next (s.respond
      { st := .done, out := some [0x3F, BitVec.ofNat 8 (0x30 + e.toNat), 0x0D, 0x0A] })) ∧
    (∀ e : BitVec 4, e.toNat = 0 ∨ 9 ≤ e.toNat →
      exec (.respFormat (.error e)) s = .next (s.respond { st := .fault .codeOutOfRange }))

/-- R161: the decimal text of a word: its base-10 digits, most significant first, with no leading zero; "0" for 0; 1 to 5 bytes. -/
def Obligations.DecimalTextIsCanonical : Prop :=
  ∀ w : Word16,
    decimalValue (dec16 w) = w.toNat ∧ (∀ b ∈ dec16 w, 0x30 ≤ b.toNat ∧ b.toNat ≤ 0x39) ∧
    (w = 0 → dec16 w = [0x30]) ∧ (w ≠ 0 → (dec16 w).head? ≠ some 0x30) ∧
    1 ≤ (dec16 w).length ∧ (dec16 w).length ≤ 5

/-- R165: RESP_PARSE, by the line's terminator and body. -/
def Obligations.RespParseClassifiesTheLine : Prop :=
  ∀ (text : Bytes) (s : State),
    (s.config.operandMax < text.length → exec (.respParse text) s = .next (s.respond { st := .fault .operandTooLong })) ∧
    (text.length ≤ s.config.operandMax → text.getLast? ≠ some 0x0D → text.getLast? ≠ some 0x0A →
      exec (.respParse text) s = .next (s.respond { st := .done, rpKind := some .malformed })) ∧
    (∀ body, text.length ≤ s.config.operandMax → lineWithBody body text →
      ((0x0D ∈ body ∨ 0x0A ∈ body ∨ body = []) →
        exec (.respParse text) s = .next (s.respond { st := .done, rpKind := some .malformed })) ∧
      ((body = [0x4F, 0x4B] ∨ body = [0x6F, 0x6B]) →
        exec (.respParse text) s = .next (s.respond { st := .done, rpKind := some .ok })) ∧
      (∀ d : Byte, body = [0x3F, d] → 0x31 ≤ d.toNat → d.toNat ≤ 0x38 → exec (.respParse text) s = .next (s.respond
        { st := .done, rpKind := some .error, rpCode := some (BitVec.ofNat 4 (d.toNat - 0x30)) })) ∧
      (body.head? = some 0x3F → (∀ d : Byte, body = [0x3F, d] → ¬ (0x31 ≤ d.toNat ∧ d.toNat ≤ 0x38)) →
        exec (.respParse text) s = .next (s.respond { st := .done, rpKind := some .malformed })) ∧
      (0x0D ∉ body → 0x0A ∉ body → body ≠ [] → body ≠ [0x4F, 0x4B] → body ≠ [0x6F, 0x6B] → body.head? ≠ some 0x3F →
        exec (.respParse text) s = .next (s.respond { st := .done, rpKind := some .value, rpValue := some body })))

/-- R166: RESP_PARSE of the same build recovers the kind and the value of every line RESP_FORMAT writes. OPERAND_MAX admits the line, as
any of 7 or more does (R160 checks the length of a value text's line alone, and the longest other is "65535" CR LF). -/
def Obligations.ResponseLinesRoundTrip : Prop :=
  ∀ (k : RespOperand) (s t : State) (o : Bytes), o.length ≤ s.config.operandMax → t.config = s.config →
    exec (.respFormat k) s = .next (s.respond { st := .done, out := some o }) →
    exec (.respParse o) t = .next (t.respond (match k with
      | .ok => { st := .done, rpKind := some .ok }
      | .valueText text => { st := .done, rpKind := some .value, rpValue := some text }
      | .valueU16 w => { st := .done, rpKind := some .value, rpValue := some (dec16 w) }
      | .error e => { st := .done, rpKind := some .error, rpCode := some e }))

/-- R170: the eight descriptions, and the fault outside 1..8. -/
def Obligations.ErrDescAnswersTheFixedStrings : Prop :=
  ∀ s : State,
    exec (.errDesc 1) s = .next (s.respond { st := .done, out := some (ascii "command not recognized".toList) }) ∧
    exec (.errDesc 2) s = .next (s.respond { st := .done, out := some (ascii "missing keyword".toList) }) ∧
    exec (.errDesc 3) s = .next (s.respond { st := .done, out := some (ascii "invalid keyword".toList) }) ∧
    exec (.errDesc 4) s = .next (s.respond { st := .done, out := some (ascii "missing parameter".toList) }) ∧
    exec (.errDesc 5) s = .next (s.respond { st := .done, out := some (ascii "invalid parameter".toList) }) ∧
    exec (.errDesc 6) s = .next (s.respond { st := .done, out := some (ascii "query-only command missing ?".toList) }) ∧
    exec (.errDesc 7) s = .next (s.respond { st := .done, out := some (ascii "command has no query form".toList) }) ∧
    exec (.errDesc 8) s = .next (s.respond { st := .done, out := some (ascii "unavailable in current state".toList) }) ∧
    (∀ e : BitVec 4, e.toNat = 0 ∨ 9 ≤ e.toNat →
      exec (.errDesc e) s = .next (s.respond { st := .fault .codeOutOfRange }))

/-- R175: DEC_TO_U16: the exact number of a non-empty string of digits, and NOT_A_NUMBER for anything else. -/
def Obligations.DecToU16ReadsDecimalText : Prop :=
  ∀ (text : Bytes) (s : State),
    let digits := ∀ b ∈ text, 0x30 ≤ b.toNat ∧ b.toNat ≤ 0x39
    (s.config.operandMax < text.length → exec (.decToU16 text) s = .next (s.respond { st := .fault .operandTooLong })) ∧
    (text.length ≤ s.config.operandMax → (text = [] ∨ ¬ digits ∨ 65535 < decimalValue text) →
      exec (.decToU16 text) s = .next (s.respond { st := .fault .notANumber })) ∧
    (text.length ≤ s.config.operandMax → text ≠ [] → digits → decimalValue text ≤ 65535 →
      exec (.decToU16 text) s = .next (s.respond { st := .done, w := some (BitVec.ofNat 16 (decimalValue text)) }))

/-- R176: DEC_TO_U16 reads every word back from its decimal text; OPERAND_MAX admits the text, as any of 5 or more does. -/
def Obligations.DecimalTextRoundTrips : Prop :=
  ∀ (w : Word16) (s : State), (dec16 w).length ≤ s.config.operandMax →
    exec (.decToU16 (dec16 w)) s = .next (s.respond { st := .done, w := some w })

/-- R105: the status word travels as decimal text: what SW_ENCODE packs is written by RESP_FORMAT with K = 2, read back by RESP_PARSE and
DEC_TO_U16 (whatever the states of the blocks, of builds whose OPERAND_MAX admits "65535" CR LF), and unpacked by SW_DECODE to the flags it
began with. -/
def Obligations.StatusReportTravelsAsDecimalText : Prop :=
  ∀ (f : Flags) (s t : State), 7 ≤ s.config.operandMax → 7 ≤ t.config.operandMax →
    ∃ (w : Word16) (line text : Bytes),
      exec (.swEncode f) s = .next (s.respond { st := .done, w := some w }) ∧
      exec (.respFormat (.valueU16 w)) s = .next (s.respond { st := .done, out := some line }) ∧
      exec (.respParse line) t = .next (t.respond { st := .done, rpKind := some .value, rpValue := some text }) ∧
      exec (.decToU16 text) t = .next (t.respond { st := .done, w := some w }) ∧
      exec (.swDecode w) t = .next (t.respond { st := .done, f := some f })

/-! ### Configuration and reserved selectors -/

/-- R190, R191: CFG_SET_ADDR takes exactly the strings of 2 bytes in 0x21..0x7E other than `:`. -/
def Obligations.CfgSetAddrTakesLegalAddresses : Prop :=
  ∀ (a : Bytes) (s : State),
    let legalByte := fun b : Byte => 0x21 ≤ b.toNat ∧ b.toNat ≤ 0x7E ∧ b ≠ 0x3A
    (s.config.operandMax < a.length → exec (.cfgSetAddr a) s = .next (s.respond { st := .fault .operandTooLong })) ∧
    (∀ x y, a = [x, y] → 2 ≤ s.config.operandMax → legalByte x → legalByte y →
      exec (.cfgSetAddr a) s = .next ({ s with cfgAddr := ⟨x, y⟩ }.respond { st := .done })) ∧
    (a.length ≤ s.config.operandMax → (a.length ≠ 2 ∨ ∃ b ∈ a, ¬ legalByte b) →
      exec (.cfgSetAddr a) s = .next (s.respond { st := .fault .badAddress }))

/-- R192: CFG_GET_ADDR returns the address held. -/
def Obligations.CfgGetAddrReturnsTheAddress : Prop :=
  ∀ s : State, exec .cfgGetAddr s = .next (s.respond { st := .done, out := some [s.cfgAddr.first, s.cfgAddr.second] })

/-- R193: every request with `OP` in 0xC..0xF, whatever its other fields, answers ILLEGAL_OP and changes nothing. (That the request of the
second clause is the host's next waiting input is the model's choice: log entry 3.) -/
def Obligations.ReservedSelectorIsIllegalOp : Prop :=
  (∀ (op : BitVec 4) (s : State), exec (.reserved op) s = .next (s.respond { st := .fault .illegalOp })) ∧
  (∀ (r : Request) (s : State) (rest : List HostInput), 0xC ≤ r.op.toNat → s.inputs = .issue (.request r) :: rest →
    step s = .next ({ s with inputs := rest }.respond { st := .fault .illegalOp }))

/-! ### Whole-machine rules -/

/-- R49: only RX_PUSH, RX_RESET and CFG_SET_ADDR change state. Every other operation answers the same response in any two states of one
build that agree on CFG_ADDR, so also the second time it is issued; only FRAME_PARSE, CFG_GET_ADDR and the keyword rows need that
agreement. (That the keyword rows are operations, each the FRAME_PARSE of a frame, is the model's choice: log entry 2.) -/
def Obligations.OtherOperationsHaveNoSideEffect : Prop :=
  ∀ (i : Instr) (s t : State), changesState i = false → s.config = t.config → s.kwTable = t.kwTable →
    (s.cfgAddr = t.cfgAddr ∨ (i ≠ .cfgGetAddr ∧ (∀ x, i ≠ .frameParse x) ∧ ∀ x, encode i ≠ .keyword x)) →
    ∃ r, exec i s = .next (s.respond r) ∧ exec i t = .next (t.respond r)

/-- R200: a faulting operation answers its ST and nothing else, keeps every state element, and the next operation behaves as if it had
never been issued. -/
def Obligations.FaultsArePrecise : Prop :=
  ∀ (i : Instr) (s t : State) (r : Response) (f : OpFault), exec i s = .next t → t.response = some r → r.st = .fault f →
    t = s.respond { st := .fault f } ∧ ∀ j, exec j t = exec j s

/-- R201: which operations raise which fault; SW_ENCODE, SW_DECODE, RX_PUSH, RX_RESET and CFG_GET_ADDR raise none. (That a keyword row
may answer OPERAND_TOO_LONG, as the FRAME_PARSE it is, is the model's choice: log entry 2.) -/
def Obligations.FaultsComeFromTheListedOperations : Prop :=
  ∀ (i : Instr) (s t : State) (r : Response) (f : OpFault), exec i s = .next t → t.response = some r → r.st = .fault f →
    match f with
    | .illegalOp => ∃ op, i = .reserved op
    | .operandTooLong =>
      (∃ a kw g, i = .cmdEncode a kw g) ∨ (∃ x, i = .frameParse x) ∨ (∃ x, i = .respFormat (.valueText x)) ∨
        (∃ x, i = .respParse x) ∨ (∃ x, i = .decToU16 x) ∨ (∃ x, i = .cfgSetAddr x) ∨ (∃ x, encode i = .keyword x)
    | .malformedCommand => ∃ a g, i = .cmdEncode a [] g
    | .badValue => ∃ x, i = .respFormat (.valueText x)
    | .codeOutOfRange => ∃ e, i = .respFormat (.error e) ∨ i = .errDesc e
    | .notANumber => ∃ x, i = .decToU16 x
    | .badAddress => ∃ x, i = .cfgSetAddr x

/-- R28: the "written by" column: CFG_ADDR is written by CFG_SET_ADDR alone, the assembler's elements by RX_PUSH and RX_RESET alone, and
KW_TABLE by no operation. (The waiting inputs and the parameters, which no operation writes either, are fields of the model's choice: log
entries 3 and 5.) -/
def Obligations.StateIsWrittenOnlyAsTheTableSays : Prop :=
  ∀ (i : Instr) (s t : State), exec i s = .next t →
    (t.cfgAddr ≠ s.cfgAddr → ∃ a, i = .cfgSetAddr a) ∧
    (t.rxBuf ≠ s.rxBuf ∨ t.rxOvf ≠ s.rxOvf ∨ t.rxPrevCr ≠ s.rxPrevCr → i = .rxReset ∨ ∃ c, i = .rxPush c) ∧
    t.kwTable = s.kwTable ∧ t.config = s.config ∧ t.inputs = s.inputs

/-- R63: the "written by" column of the response fields. (A keyword row counts as the FRAME_PARSE it is, the model's choice: log entry
2.) -/
def Obligations.ResponseFieldsComeFromTheirOperations : Prop :=
  ∀ (i : Instr) (s t : State), exec i s = .next t → ∃ r, t.response = some r ∧
    (r.w.isSome → (∃ f, i = .swEncode f) ∨ ∃ x, i = .decToU16 x) ∧
    (r.f.isSome → ∃ w, i = .swDecode w) ∧
    (r.out.isSome → (∃ a kw g, i = .cmdEncode a kw g) ∨ (∃ k, i = .respFormat k) ∨ (∃ e, i = .errDesc e) ∨ i = .cfgGetAddr) ∧
    (r.rxr.isSome ∨ r.frKind.isSome ∨ r.frAddr.isSome ∨ r.frKw.isSome ∨ r.frArg.isSome ∨ r.peReason.isSome ∨ r.pcode.isSome →
      (∃ x, i = .frameParse x) ∨ (∃ c, i = .rxPush c) ∨ ∃ x, encode i = .keyword x) ∧
    (r.rpKind.isSome ∨ r.rpCode.isSome ∨ r.rpValue.isSome → ∃ x, i = .respParse x)

/-- R64, R67 to R70, R77: on the port, whatever stands in the fields an operation does not name, `ST` is below 8, a named `RXR` or
`FR_KIND` is never 3, a named `PE_REASON` is never 0, a named `PCODE` is 1, 2, 3, 5 or 6, and a named `RP_CODE` is 1 to 8. -/
def Obligations.ReservedCodesAreNeverProduced : Prop :=
  ∀ (i : Instr) (s t : State) (idle : PortFields), exec i s = .next t →
    ∃ r p, t.response = some r ∧ t.portOut idle = some p ∧ p.st.toNat < 8 ∧
      (r.rxr.isSome → p.rxr ≠ 3) ∧ (r.frKind.isSome → p.frKind ≠ 3) ∧ (r.peReason.isSome → p.peReason ≠ 0) ∧
      (r.pcode.isSome → p.pcode ∈ [1, 2, 3, 5, 6]) ∧ (r.rpCode.isSome → 1 ≤ p.rpCode.toNat ∧ p.rpCode.toNat ≤ 8)

/-- R65: no result is longer than OPERAND_MAX, which admits the longest description (28 bytes). -/
def Obligations.ResultsFitOperandMax : Prop :=
  ∀ (i : Instr) (s t : State) (r : Response), s.Inv → 28 ≤ s.config.operandMax → exec i s = .next t → t.response = some r →
    (∀ x, r.out = some x → x.length ≤ s.config.operandMax) ∧
    (∀ x, r.frKw = some x → x.length ≤ s.config.operandMax) ∧
    (∀ x, r.frArg = some (some x) → x.length ≤ s.config.operandMax) ∧
    (∀ x, r.rpValue = some x → x.length ≤ s.config.operandMax)

/-- From every state, whatever its next input, a step answers a next state: R200 has the block ready after a fault and R208 has no trap.
That nothing else stops it is the model's reading (DEDUCED, log entry 11), and that a step with no waiting input leaves the state as it is
is the model's choice (log entry 3). -/
def Obligations.EveryStepGoesOn : Prop :=
  ∀ s : State, ∃ t, step s = .next t

/-- The invariant of the block's state (R8, R23 to R26, R76, R190) is kept by every step. -/
def Obligations.StepKeepsTheStateInvariant : Prop :=
  ∀ s t : State, s.Inv → step s = .next t → t.Inv

/-- The invariant holds after reset. -/
def Obligations.ResetStateMeetsTheInvariant : Prop := State.reset.Inv
end

