-- ==== Sys2Proof/Laws/Flags.lean ====
section
/-! SUPPORT. The status word bit by bit (R100 to R104). -/

namespace Sys2Proof.Machine

/-- R100: every named flag has one of the 16 bits. -/
theorem flagBit_lt (n : Flag) : flagBit n < 16 := by cases n <;> decide

/-- R101: setting a bit sets that bit alone. -/
theorem getLsbD_setBit (w : Word16) (i j : Nat) (hi : i < 16) :
    (w ||| ((1 : Word16) <<< i)).getLsbD j = (w.getLsbD j || decide (i = j)) := by
  rw [BitVec.getLsbD_or]
  congr 1
  rw [BitVec.getLsbD_shiftLeft]
  by_cases h : i = j
  · subst h; simp [hi]
  · by_cases h2 : j < i
    · simp [h, h2]
    · have : j - i ≠ 0 := by omega
      simp [h, h2]; intro _; omega

/-- R101, R104: a bit of the packed word is 1 exactly when it was, or a flag visited has it and is 1; the order of the visit plays
no part. -/
theorem packOver_getLsbD (f : Flags) (l : List Flag) (w : Word16) (j : Nat) :
    (packOver f l w).getLsbD j = (w.getLsbD j || l.any fun n => getFlag f n && decide (flagBit n = j)) := by
  induction l generalizing w with
  | nil => simp [packOver]
  | cons n ns ih =>
    rw [packOver, ih]
    by_cases h : getFlag f n = true
    · rw [if_pos h, getLsbD_setBit _ _ _ (flagBit_lt n)]; simp [h, Bool.or_assoc]
    · simp [h]

end Sys2Proof.Machine
end

