-- ==== Sys2Proof/Laws/State.lean ====
section
/-! SUPPORT. One lemma per field per update of State. -/

namespace Sys2Proof.Machine

@[simp] theorem respond_cfgAddr (s : State) (r : Response) : (s.respond r).cfgAddr = s.cfgAddr := rfl
@[simp] theorem respond_rxBuf (s : State) (r : Response) : (s.respond r).rxBuf = s.rxBuf := rfl
@[simp] theorem respond_rxOvf (s : State) (r : Response) : (s.respond r).rxOvf = s.rxOvf := rfl
@[simp] theorem respond_rxPrevCr (s : State) (r : Response) : (s.respond r).rxPrevCr = s.rxPrevCr := rfl
@[simp] theorem respond_kwTable (s : State) (r : Response) : (s.respond r).kwTable = s.kwTable := rfl
@[simp] theorem respond_config (s : State) (r : Response) : (s.respond r).config = s.config := rfl
@[simp] theorem respond_inputs (s : State) (r : Response) : (s.respond r).inputs = s.inputs := rfl
@[simp] theorem respond_response (s : State) (r : Response) : (s.respond r).response = some r := rfl

@[simp] theorem setAddr_cfgAddr (s : State) (a : Addr) : (s.setAddr a).cfgAddr = a := rfl
@[simp] theorem setAddr_rxBuf (s : State) (a : Addr) : (s.setAddr a).rxBuf = s.rxBuf := rfl
@[simp] theorem setAddr_rxOvf (s : State) (a : Addr) : (s.setAddr a).rxOvf = s.rxOvf := rfl
@[simp] theorem setAddr_rxPrevCr (s : State) (a : Addr) : (s.setAddr a).rxPrevCr = s.rxPrevCr := rfl
@[simp] theorem setAddr_kwTable (s : State) (a : Addr) : (s.setAddr a).kwTable = s.kwTable := rfl
@[simp] theorem setAddr_config (s : State) (a : Addr) : (s.setAddr a).config = s.config := rfl
@[simp] theorem setAddr_inputs (s : State) (a : Addr) : (s.setAddr a).inputs = s.inputs := rfl
@[simp] theorem setAddr_response (s : State) (a : Addr) : (s.setAddr a).response = s.response := rfl

@[simp] theorem clearAssembler_cfgAddr (s : State) : (s.clearAssembler).cfgAddr = s.cfgAddr := rfl
@[simp] theorem clearAssembler_rxBuf (s : State) : (s.clearAssembler).rxBuf = [] := rfl
@[simp] theorem clearAssembler_rxOvf (s : State) : (s.clearAssembler).rxOvf = false := rfl
@[simp] theorem clearAssembler_rxPrevCr (s : State) : (s.clearAssembler).rxPrevCr = false := rfl
@[simp] theorem clearAssembler_kwTable (s : State) : (s.clearAssembler).kwTable = s.kwTable := rfl
@[simp] theorem clearAssembler_config (s : State) : (s.clearAssembler).config = s.config := rfl
@[simp] theorem clearAssembler_inputs (s : State) : (s.clearAssembler).inputs = s.inputs := rfl
@[simp] theorem clearAssembler_response (s : State) : (s.clearAssembler).response = s.response := rfl

@[simp] theorem endFrame_cfgAddr (s : State) (b : Bool) : (s.endFrame b).cfgAddr = s.cfgAddr := rfl
@[simp] theorem endFrame_rxBuf (s : State) (b : Bool) : (s.endFrame b).rxBuf = [] := rfl
@[simp] theorem endFrame_rxOvf (s : State) (b : Bool) : (s.endFrame b).rxOvf = false := rfl
@[simp] theorem endFrame_rxPrevCr (s : State) (b : Bool) : (s.endFrame b).rxPrevCr = b := rfl
@[simp] theorem endFrame_kwTable (s : State) (b : Bool) : (s.endFrame b).kwTable = s.kwTable := rfl
@[simp] theorem endFrame_config (s : State) (b : Bool) : (s.endFrame b).config = s.config := rfl
@[simp] theorem endFrame_inputs (s : State) (b : Bool) : (s.endFrame b).inputs = s.inputs := rfl
@[simp] theorem endFrame_response (s : State) (b : Bool) : (s.endFrame b).response = s.response := rfl

@[simp] theorem stripLf_cfgAddr (s : State) : (s.stripLf).cfgAddr = s.cfgAddr := rfl
@[simp] theorem stripLf_rxBuf (s : State) : (s.stripLf).rxBuf = s.rxBuf := rfl
@[simp] theorem stripLf_rxOvf (s : State) : (s.stripLf).rxOvf = s.rxOvf := rfl
@[simp] theorem stripLf_rxPrevCr (s : State) : (s.stripLf).rxPrevCr = false := rfl
@[simp] theorem stripLf_kwTable (s : State) : (s.stripLf).kwTable = s.kwTable := rfl
@[simp] theorem stripLf_config (s : State) : (s.stripLf).config = s.config := rfl
@[simp] theorem stripLf_inputs (s : State) : (s.stripLf).inputs = s.inputs := rfl
@[simp] theorem stripLf_response (s : State) : (s.stripLf).response = s.response := rfl

@[simp] theorem applyReset_cfgAddr (s : State) : (s.applyReset).cfgAddr = s.config.addrReset := rfl
@[simp] theorem applyReset_rxBuf (s : State) : (s.applyReset).rxBuf = [] := rfl
@[simp] theorem applyReset_rxOvf (s : State) : (s.applyReset).rxOvf = false := rfl
@[simp] theorem applyReset_rxPrevCr (s : State) : (s.applyReset).rxPrevCr = false := rfl
@[simp] theorem applyReset_kwTable (s : State) : (s.applyReset).kwTable = s.kwTable := rfl
@[simp] theorem applyReset_config (s : State) : (s.applyReset).config = s.config := rfl
@[simp] theorem applyReset_inputs (s : State) : (s.applyReset).inputs = s.inputs := rfl
@[simp] theorem applyReset_response (s : State) : (s.applyReset).response = none := rfl

@[simp] theorem withFetchWord_cfgAddr (s : State) (nbits w : Nat) : (s.withFetchWord nbits w).cfgAddr = s.cfgAddr := rfl
@[simp] theorem withFetchWord_rxBuf (s : State) (nbits w : Nat) : (s.withFetchWord nbits w).rxBuf = s.rxBuf := rfl
@[simp] theorem withFetchWord_rxOvf (s : State) (nbits w : Nat) : (s.withFetchWord nbits w).rxOvf = s.rxOvf := rfl
@[simp] theorem withFetchWord_rxPrevCr (s : State) (nbits w : Nat) : (s.withFetchWord nbits w).rxPrevCr = s.rxPrevCr := rfl
@[simp] theorem withFetchWord_kwTable (s : State) (nbits w : Nat) : (s.withFetchWord nbits w).kwTable = s.kwTable := rfl
@[simp] theorem withFetchWord_config (s : State) (nbits w : Nat) : (s.withFetchWord nbits w).config = s.config := rfl
@[simp] theorem withFetchWord_inputs (s : State) (nbits w : Nat) : (s.withFetchWord nbits w).inputs = .issue (encodedOfTableWord nbits w) :: s.inputs := rfl
@[simp] theorem withFetchWord_response (s : State) (nbits w : Nat) : (s.withFetchWord nbits w).response = s.response := rfl

@[simp] theorem collect_cfgAddr (s : State) (c : Byte) : (s.collect c).cfgAddr = s.cfgAddr := by
  unfold State.collect; split <;> rfl
@[simp] theorem collect_rxPrevCr (s : State) (c : Byte) : (s.collect c).rxPrevCr = false := by
  unfold State.collect; split <;> rfl
@[simp] theorem collect_kwTable (s : State) (c : Byte) : (s.collect c).kwTable = s.kwTable := by
  unfold State.collect; split <;> rfl
@[simp] theorem collect_config (s : State) (c : Byte) : (s.collect c).config = s.config := by
  unfold State.collect; split <;> rfl
@[simp] theorem collect_inputs (s : State) (c : Byte) : (s.collect c).inputs = s.inputs := by
  unfold State.collect; split <;> rfl
@[simp] theorem collect_response (s : State) (c : Byte) : (s.collect c).response = s.response := by
  unfold State.collect; split <;> rfl

/-- R130: the buffer after a byte of a frame. -/
theorem collect_rxBuf (s : State) (c : Byte) :
    (s.collect c).rxBuf = if s.rxBuf.length < s.config.rxCap then s.rxBuf ++ [c] else s.rxBuf := by
  unfold State.collect; split <;> rfl

/-- R130: the overflow bit after a byte of a frame. -/
theorem collect_rxOvf (s : State) (c : Byte) :
    (s.collect c).rxOvf = if s.rxBuf.length < s.config.rxCap then s.rxOvf else true := by
  unfold State.collect; split <;> rfl

/-- R40: a later response replaces an earlier one. -/
@[simp] theorem respond_respond (s : State) (r q : Response) : (s.respond r).respond q = s.respond q := rfl

end Sys2Proof.Machine
end

