-- ==== Sys2Proof/Laws/Ops.lean ====
section
/-! SUPPORT. What each shared operation can do, said once. -/

namespace Sys2Proof.Machine

/-- R12: an operation that returns goes on with its response on the port. -/
theorem complete_next (s t : State) (r : Response) : complete s r = .next t ↔ t = s.respond r := by
  simp [complete, eq_comm]

/-- R200: a fault goes on too, with only its status on the port. -/
theorem raiseFault_next (s t : State) (f : OpFault) : raiseFault s f = .next t ↔ t = s.respond (faultResponse f) := by
  simp [raiseFault, complete_next]

/-- R200: a fault is seen in `ST` alone. -/
theorem faultResponse_st (f g : OpFault) : (faultResponse f).st = .fault g ↔ f = g := by simp [faultResponse]

/-- R122, R204: a result of `parse` is no fault. -/
@[simp] theorem frameResponse_st (r : FrameResult) : (frameResponse r).st = .done := by cases r <;> rfl

/-- R130: nor is the absence of a result. -/
@[simp] theorem noFrameResponse_st : noFrameResponse.st = .done := rfl

/-- R42: what `fetch` takes from the waiting inputs. -/
theorem fetch_cases (s : State) :
    (s.inputs = [] ∧ fetch s = .idle) ∨
    (∃ rest, s.inputs = .reset :: rest ∧ fetch s = .reset { s with inputs := rest }) ∨
    (∃ e rest, s.inputs = .issue e :: rest ∧ fetch s = .run (instrOf s e) { s with inputs := rest }) := by
  unfold fetch
  split <;> simp_all

/-- One step, by the next input. -/
theorem step_cases (s : State) :
    (s.inputs = [] ∧ step s = .next s) ∨
    (∃ rest, s.inputs = .reset :: rest ∧ step s = .next { s with inputs := rest }.applyReset) ∨
    (∃ e rest, s.inputs = .issue e :: rest ∧ step s = exec (instrOf s e) { s with inputs := rest }) := by
  unfold step
  rcases fetch_cases s with ⟨h, hf⟩ | ⟨rest, h, hf⟩ | ⟨e, rest, h, hf⟩ <;> simp [h, hf]

/-- R42: steps add up. -/
theorem stepTimes_add (k m : Nat) (s t : State) (h : stepTimes k s = .next t) : stepTimes (k + m) s = stepTimes m t := by
  induction k generalizing s with
  | zero => cases h; simp
  | succ k ih =>
    rw [Nat.add_right_comm, stepTimes]
    rw [stepTimes] at h
    cases hu : step s with
    | next u => rw [hu] at h; exact ih u h
    | fault r => rw [hu] at h; cases h
    | refused r => rw [hu] at h; cases h

/-- R50: what a step does with a byte the host pushes. -/
theorem step_pushes (s : State) (c : Byte) (cs : Bytes) (rest : List HostInput) (h : s.inputs = pushes (c :: cs) ++ rest) :
    step s = exec (.rxPush c) { s with inputs := pushes cs ++ rest } := by
  have h' : s.inputs = .issue (.request { op := 0x8, byte := c }) :: (pushes cs ++ rest) := h
  simp only [step, fetch, h']
  rfl

/-- What the host issues, by whether the decoder knows it. -/
theorem instrOf_request (s : State) (r : Request) : instrOf s (.request r) = decodeRequest r := rfl

/-- R122: the whole of FRAME_PARSE in two cases. -/
theorem parseFrame_cases (text : Bytes) (s : State) :
    (s.config.operandMax < text.length ∧ parseFrame text s = .next (s.respond (faultResponse .operandTooLong))) ∨
    (text.length ≤ s.config.operandMax ∧ parseFrame text s = .next (s.respond (frameResponse (s.parse text)))) := by
  by_cases h : s.config.operandMax < text.length
  · exact .inl ⟨h, by simp [parseFrame, tooLong, h, raiseFault, complete]⟩
  · exact .inr ⟨Nat.le_of_not_lt h, by simp [parseFrame, tooLong, h, complete]⟩

end Sys2Proof.Machine
end

