-- ==== Sys2Proof/Laws/Operands.lean ====
section
/-! SUPPORT. The search primitives, the tokenizer and decimal text, one lemma for each thing they do. -/

namespace Sys2Proof.Machine

/-- R11: a byte of X right after bytes that are not in it is where `find_first` stops. -/
theorem findFirst_append (inX : Byte → Bool) (before after : Bytes) (b : Byte) (hb : ∀ x ∈ before, inX x = false)
    (h : inX b = true) : findFirst inX (before ++ b :: after) = some before.length := by
  induction before with
  | nil => simp [findFirst, h]
  | cons x xs ih =>
    have hx := hb x (by simp)
    simp [findFirst, hx, ih (fun y hy => hb y (by simp [hy]))]

/-- R11: `find_first` is NONE where no byte is in X. -/
theorem findFirst_eq_none (inX : Byte → Bool) (text : Bytes) : findFirst inX text = none ↔ ∀ x ∈ text, inX x = false := by
  induction text with
  | nil => simp [findFirst]
  | cons x xs ih => by_cases h : inX x = true <;> simp_all [findFirst]

/-- R11: an index `find_first` gives splits the text at its first byte of X. -/
theorem findFirst_split (inX : Byte → Bool) (text : Bytes) (i : Nat) (h : findFirst inX text = some i) :
    ∃ b, text = text.take i ++ b :: text.drop (i + 1) ∧ inX b = true ∧ (∀ x ∈ text.take i, inX x = false) ∧
      (text.take i).length = i := by
  induction text generalizing i with
  | nil => simp [findFirst] at h
  | cons x xs ih =>
    by_cases hx : inX x = true
    · simp [findFirst, hx] at h; subst h; exact ⟨x, by simp [hx]⟩
    · simp [findFirst, hx] at h
      obtain ⟨j, hj, rfl⟩ := h
      obtain ⟨b, h1, h2, h3, h4⟩ := ih j hj
      refine ⟨b, by simpa using h1, h2, ?_, by simpa using h4⟩
      simp only [List.take_succ_cons, List.mem_cons, forall_eq_or_imp]
      exact ⟨by simpa using hx, h3⟩

/-- R11: text without whitespace only lengthens the token being read. -/
theorem tokensFrom_word (ws token text : Bytes) (h : ∀ b ∈ text, isSpace ws b = false) :
    tokensFrom ws token text = consToken (token ++ text) [] := by
  induction text generalizing token with
  | nil => simp [tokensFrom]
  | cons b bs ih =>
    simp [tokensFrom, h b (by simp), ih (token ++ [b]) (fun x hx => h x (by simp [hx]))]

/-- A list of tokens followed by another. -/
theorem consToken_append (token : Bytes) (xs ys : List Bytes) : consToken token (xs ++ ys) = consToken token xs ++ ys := by
  unfold consToken; split <;> simp

/-- R11: whitespace separates. -/
theorem tokensFrom_space (ws token before after : Bytes) (b : Byte) (h : isSpace ws b = true) :
    tokensFrom ws token (before ++ b :: after) = tokensFrom ws token before ++ tokensFrom ws [] after := by
  induction before generalizing token with
  | nil => simp [tokensFrom, h, ← consToken_append]
  | cons x xs ih =>
    by_cases hx : isSpace ws x = true
    · simp [tokensFrom, hx, ih [], consToken_append]
    · simp [tokensFrom, hx, ih (token ++ [x])]

/-- R11: no token is empty. -/
theorem tokensFrom_ne_nil (ws token text : Bytes) : ∀ t ∈ tokensFrom ws token text, t ≠ [] := by
  induction text generalizing token with
  | nil => unfold tokensFrom consToken; split <;> simp_all
  | cons b bs ih =>
    unfold tokensFrom
    split
    · unfold consToken
      split
      · exact ih []
      · rintro t (_ | ⟨_, ht⟩)
        · assumption
        · exact ih [] t ht
    · exact ih _

/-- R11: a token's bytes are bytes of the text and are not whitespace, as long as the token being read has such bytes. -/
theorem tokensFrom_bytes (ws text : Bytes) (good : Byte → Prop) (hg : ∀ b ∈ text, good b) (token : Bytes)
    (ht : ∀ b ∈ token, good b ∧ isSpace ws b = false) :
    ∀ t ∈ tokensFrom ws token text, ∀ b ∈ t, good b ∧ isSpace ws b = false := by
  induction text generalizing token with
  | nil => unfold tokensFrom consToken; split <;> simp_all
  | cons b bs ih =>
    have hbs : ∀ x ∈ bs, good x := fun x hx => hg x (by simp [hx])
    unfold tokensFrom
    split
    · unfold consToken
      split
      · exact ih hbs [] (by simp)
      · rintro t (_ | ⟨_, h⟩)
        · exact ht
        · exact ih hbs [] (by simp) t h
    · rename_i hb
      refine ih hbs _ fun x hx => ?_
      rcases List.mem_append.1 hx with hx | hx
      · exact ht x hx
      · rw [List.mem_singleton.1 hx]; exact ⟨hg b (by simp), by simpa using hb⟩

/-- R65: no token is longer than what it is read from. -/
theorem tokensFrom_length (ws token text : Bytes) : ∀ t ∈ tokensFrom ws token text, t.length ≤ token.length + text.length := by
  induction text generalizing token with
  | nil => unfold tokensFrom consToken; split <;> simp_all
  | cons b bs ih =>
    unfold tokensFrom
    split
    · unfold consToken
      have later : ∀ t ∈ tokensFrom ws [] bs, t.length ≤ token.length + (b :: bs).length := fun t ht => by
        have := ih [] t ht; simp at this ⊢; omega
      split
      · exact later
      · rintro t (_ | ⟨_, h⟩)
        · simp
        · exact later t h
    · intro t h
      have := ih _ t h
      simp at this ⊢; omega

/-- R121: a text of clean bytes is one token. -/
theorem tokens_word (ws text : Bytes) (hne : text ≠ []) (h : ∀ b ∈ text, isSpace ws b = false) : tokens ws text = [text] := by
  simp [tokens, tokensFrom_word ws [] text h, consToken, hne]

/-- R190: exactly the legal pairs of bytes are addresses. -/
theorem legalAddress_eq_some (text : Bytes) (a : Addr) :
    legalAddress text = some a ↔ text = a.bytes ∧ legalAddr a = true := by
  unfold legalAddress
  split
  · rename_i b c
    constructor
    · intro h
      split at h
      · cases h; exact ⟨rfl, ‹_›⟩
      · cases h
    · rintro ⟨h, hl⟩
      simp only [Addr.bytes, List.cons.injEq, and_true] at h
      obtain ⟨rfl, rfl⟩ := h
      exact if_pos hl
  · rename_i h
    simp only [reduceCtorEq, false_iff]
    rintro ⟨rfl, -⟩
    exact h _ _ rfl

/-- R190: a legal address holds no `:` and no terminator. -/
theorem legalAddr_bytes (a : Addr) (h : legalAddr a = true) : ∀ b ∈ a.bytes, b ≠ colon ∧ isTerminator b = false := by
  have one : ∀ b : Byte, legalAddrByte b = true → b ≠ colon ∧ isTerminator b = false := by decide
  simp only [legalAddr, Bool.and_eq_true] at h
  simp only [Addr.bytes, List.mem_cons, List.not_mem_nil, or_false]
  rintro b (rfl | rfl)
  · exact one _ h.1
  · exact one _ h.2

/-- R161: the byte of a digit reads as the digit. -/
theorem digitByte_toNat (d : Nat) (h : d < 10) : (digitByte d).toNat = 0x30 + d := by
  simp [digitByte]; omega

/-- R175: reading digits goes on from the value read so far. -/
theorem decValueFrom_append (v : Nat) (xs ys : Bytes) :
    decValueFrom v (xs ++ ys) = (decValueFrom v xs).bind fun u => decValueFrom u ys := by
  induction xs generalizing v with
  | nil => rfl
  | cons x xs ih => simp only [List.cons_append, decValueFrom]; split <;> simp [ih]

/-- R161, R175: the digits of a number read back as it. -/
theorem decValueFrom_decDigits (fuel n : Nat) (h : n < 10 ^ fuel) : decValueFrom 0 (decDigits fuel n) = some n := by
  induction fuel generalizing n with
  | zero => simp at h; simp [decDigits, decValueFrom, h]
  | succ k ih =>
    have one : ∀ v d, d < 10 → decValueFrom v [digitByte d] = some (10 * v + d) := fun v d hd => by
      simp [decValueFrom, isDigit, digitByte_toNat d hd]; omega
    unfold decDigits
    split
    · simpa using one 0 n ‹_›
    · rw [decValueFrom_append, ih _ (by rw [Nat.pow_succ] at h; omega)]
      simp [one _ _ (Nat.mod_lt n (by decide))]
      omega

end Sys2Proof.Machine
end

