-- ==== Sys2Proof/Laws/Parse.lean ====
section
/-! SUPPORT. What `parse` does (R123 to R127): forwards on each shape of frame, and backwards from its answer. -/

namespace Sys2Proof.Machine

/-- R123: after the header for the address, what is left is parsed. -/
theorem parse_header (ws : Bytes) (rows : List KwRow) (a : Addr) (ha : legalAddr a = true) (rem : Bytes) :
    parse ws rows a ([semicolon] ++ a.bytes ++ [colon] ++ rem) = parseRemainder ws rows a rem := by
  have hb : ∀ x ∈ [semicolon] ++ a.bytes, (x == colon) = false := by
    intro x hx
    rcases List.mem_append.1 hx with hx | hx
    · rw [List.mem_singleton.1 hx]; decide
    · simpa using (legalAddr_bytes a ha x hx).1
  have hf := findFirst_append (· == colon) ([semicolon] ++ a.bytes) rem colon hb (by simp)
  have e : [semicolon] ++ a.bytes ++ [colon] ++ rem = ([semicolon] ++ a.bytes) ++ colon :: rem := by simp
  have h3 : ([semicolon] ++ a.bytes).length = 3 := rfl
  rw [e, parse, hf]
  simp only [List.take_left', List.drop_append, h3, ne_eq, not_true_eq_false, if_false]
  rfl

/-- R124: the payload ends at the first terminator. -/
theorem parseRemainder_terminated (ws : Bytes) (rows : List KwRow) (a : Addr) (payload after : Bytes) (c : Byte)
    (hp : ∀ b ∈ payload, isTerminator b = false) (hc : isTerminator c = true) :
    parseRemainder ws rows a (payload ++ c :: after) = parsePayload ws rows a payload := by
  simp [parseRemainder, findFirst_append isTerminator payload after c hp hc]

/-- R125: a payload with a `?`. -/
theorem parsePayload_query (ws : Bytes) (rows : List KwRow) (a : Addr) (before after : Bytes)
    (h : ∀ b ∈ before, b ≠ questionMark) :
    parsePayload ws rows a (before ++ questionMark :: after) = parseQuery a (tokens ws before) (tokens ws after) := by
  have hf := findFirst_append (· == questionMark) before after questionMark (fun b hb => by simpa using h b hb) (by simp)
  simp [parsePayload, hf]

/-- R126: a payload without a `?`. -/
theorem parsePayload_action (ws : Bytes) (rows : List KwRow) (a : Addr) (payload : Bytes)
    (h : ∀ b ∈ payload, b ≠ questionMark) : parsePayload ws rows a payload = parseAction rows a (tokens ws payload) := by
  have hf := (findFirst_eq_none (· == questionMark) payload).2 (fun b hb => by simpa using h b hb)
  simp [parsePayload, hf]

/-- R125, R126: an accepted frame has the configured address, and its keyword and argument are tokens of the payload. -/
theorem parsePayload_frame (ws : Bytes) (rows : List KwRow) (a : Addr) (payload : Bytes) (kind : FrameKind) (b : Addr)
    (kw : Bytes) (arg : Option Bytes) (h : parsePayload ws rows a payload = .frame kind b kw arg) :
    b = a ∧ ∃ text, (∀ x ∈ text, x ∈ payload ∧ x ≠ questionMark) ∧ text.length ≤ payload.length ∧ kw ∈ tokens ws text ∧
      ((kind ≠ .actionArg ∧ arg = none) ∨ (kind = .actionArg ∧ ∃ g, arg = some g ∧ g ∈ tokens ws text)) := by
  unfold parsePayload at h
  split at h
  · rename_i q hq
    obtain ⟨m, h1, -, h3, h4⟩ := findFirst_split _ _ _ hq
    unfold parseQuery at h
    split at h
    · cases h
    · rename_i t ht hu
      cases h
      refine ⟨rfl, payload.take q, fun x hx => ⟨List.mem_of_mem_take hx, by simpa using h3 x hx⟩, by simp, by simp [ht], .inl ?_⟩
      simp
    · cases h
  · rename_i hq
    have hn := (findFirst_eq_none _ _).1 hq
    have hall : ∀ x ∈ payload, x ∈ payload ∧ x ≠ questionMark := fun x hx => ⟨hx, by simpa using hn x hx⟩
    unfold parseAction at h
    split at h
    · cases h
    · rename_i t ht
      unfold parseOneToken at h
      split at h <;> cases h
      exact ⟨rfl, payload, hall, le_rfl, by simp [ht], .inl (by simp)⟩
    · rename_i t u ht
      cases h
      exact ⟨rfl, payload, hall, le_rfl, by simp [ht], .inr (by simp [ht])⟩
    · cases h

/-- R123, R124: a frame is accepted only through its payload, the bytes before the first terminator. -/
theorem parse_frame (ws : Bytes) (rows : List KwRow) (a : Addr) (text : Bytes) (kind : FrameKind) (b : Addr) (kw : Bytes)
    (arg : Option Bytes) (h : parse ws rows a text = .frame kind b kw arg) :
    ∃ payload, (∀ x ∈ payload, isTerminator x = false) ∧ payload.length ≤ text.length ∧
      parsePayload ws rows a payload = .frame kind b kw arg := by
  unfold parse at h
  split at h
  · cases h
  · split at h
    · cases h
    · unfold parseRemainder at h
      split at h
      · cases h
      · rename_i i _ _ j hj
        obtain ⟨_, -, -, h3, -⟩ := findFirst_split _ _ _ hj
        exact ⟨_, h3, by simp, h⟩

end Sys2Proof.Machine
end

