-- ==== Sys2Proof/Laws/Meanings.lean ====
section
/-! SUPPORT. What each meaning can answer, one lemma per meaning: the state it leaves and the response it gives, so that a proof over
all instructions need not unfold a meaning. -/

namespace Sys2Proof.Machine

/-- The meaning goes on with one of these responses and changes nothing else. -/
def Answers (x : Result) (s : State) (ok : Response → Prop) : Prop := ∃ r, x = .next (s.respond r) ∧ ok r

/-- The response is one of these faults. -/
def isFaultOf (fs : List OpFault) (r : Response) : Prop := ∃ f ∈ fs, r = faultResponse f

/-- R12: a returned response. -/
theorem answers_complete (s : State) (r : Response) (ok : Response → Prop) (h : ok r) : Answers (complete s r) s ok :=
  ⟨r, rfl, h⟩

/-- R200: a raised fault. -/
theorem answers_raise (s : State) (f : OpFault) (ok : Response → Prop) (h : ok (faultResponse f)) :
    Answers (raiseFault s f) s ok := ⟨_, rfl, h⟩

/-- R101. -/
theorem execSwEncode_answers (f : Flags) (s : State) :
    Answers (execSwEncode f s) s fun r => r = { st := .done, w := some (packFlags f) } := answers_complete _ _ _ rfl

/-- R102. -/
theorem execSwDecode_answers (w : Word16) (s : State) :
    Answers (execSwDecode w s) s fun r => r = { st := .done, f := some (unpackFlags w) } := answers_complete _ _ _ rfl

/-- R120. -/
theorem execCmdEncode_answers (a kw : Bytes) (g : Option Bytes) (s : State) :
    Answers (execCmdEncode a kw g s) s fun r =>
      r = faultResponse .operandTooLong ∨ (kw = [] ∧ r = faultResponse .malformedCommand) ∨
        ((buildFrame a kw g).length ≤ s.config.operandMax ∧ r = { st := .done, out := some (buildFrame a kw g) }) := by
  unfold execCmdEncode
  split
  · exact answers_raise _ _ _ (.inl rfl)
  · split
    · exact answers_raise _ _ _ (.inl rfl)
    · split
      · exact answers_raise _ _ _ (.inr (.inl ⟨List.eq_nil_of_length_eq_zero ‹_›, rfl⟩))
      · split
        · exact answers_raise _ _ _ (.inl rfl)
        · rename_i h
          exact answers_complete _ _ _ (.inr (.inr ⟨by simpa [tooLong] using h, rfl⟩))

/-- R122. -/
theorem parseFrame_answers (text : Bytes) (s : State) :
    Answers (parseFrame text s) s fun r =>
      r = faultResponse .operandTooLong ∨ (text.length ≤ s.config.operandMax ∧ r = frameResponse (s.parse text)) := by
  rcases parseFrame_cases text s with ⟨-, h⟩ | ⟨hl, h⟩
  · exact ⟨_, h, .inl rfl⟩
  · exact ⟨_, h, .inr ⟨hl, rfl⟩⟩

/-- R160. -/
theorem execRespFormat_answers (k : RespOperand) (s : State) :
    Answers (execRespFormat k s) s fun r =>
      match k with
      | .ok => r = { st := .done, out := some (okUpper ++ crLf) }
      | .valueText text =>
        r = faultResponse .operandTooLong ∨ r = faultResponse .badValue ∨
          (valueTextOk text = true ∧ (text ++ crLf).length ≤ s.config.operandMax ∧ r = { st := .done, out := some (text ++ crLf) })
      | .valueU16 w => r = { st := .done, out := some (dec16 w ++ crLf) }
      | .error e =>
        r = faultResponse .codeOutOfRange ∨
          (codeInRange e = true ∧ r = { st := .done, out := some ([questionMark, digitByte e.toNat] ++ crLf) }) := by
  cases k with
  | ok => exact answers_complete _ _ _ rfl
  | valueU16 w => exact answers_complete _ _ _ rfl
  | valueText text =>
    simp only [execRespFormat]
    split
    · exact answers_raise _ _ _ (.inl rfl)
    · split
      · exact answers_raise _ _ _ (.inr (.inl rfl))
      · split
        · exact answers_raise _ _ _ (.inl rfl)
        · rename_i h1 h2
          exact answers_complete _ _ _ (.inr (.inr ⟨by simpa using h1, by simpa [tooLong] using h2, rfl⟩))
  | error e =>
    simp only [execRespFormat]
    split
    · exact answers_raise _ _ _ (.inl rfl)
    · rename_i h
      exact answers_complete _ _ _ (.inr ⟨by simpa using h, rfl⟩)

/-- R165: the kinds of a line. -/
theorem parseBody_cases (body : Bytes) :
    parseBody body = malformedLine ∨ parseBody body = { st := .done, rpKind := some .ok } ∨
    (∃ d : Byte, 0x31 ≤ d.toNat ∧ d.toNat ≤ 0x38 ∧
      parseBody body = { st := .done, rpKind := some .error, rpCode := some (BitVec.ofNat 4 (d.toNat - 0x30)) }) ∨
    parseBody body = { st := .done, rpKind := some .value, rpValue := some body } := by
  unfold parseBody
  split
  · exact .inl rfl
  · split
    · exact .inr (.inl rfl)
    · split
      · exact .inl rfl
      · split
        · unfold parseErrorBody
          split
          · split
            · rename_i h; exact .inr (.inr (.inl ⟨_, h.1, h.2, rfl⟩))
            · exact .inl rfl
          · exact .inl rfl
        · exact .inr (.inr (.inr rfl))

/-- R165: the body is part of the line. -/
theorem responseBody_length (text body : Bytes) (h : responseBody text = some body) : body.length ≤ text.length := by
  unfold responseBody at h
  split at h
  · cases h; simp
  · split at h
    · cases h; simp
    · cases h

/-- R165: the kinds of a response. -/
theorem parseResponse_cases (text : Bytes) :
    parseResponse text = malformedLine ∨ parseResponse text = { st := .done, rpKind := some .ok } ∨
    (∃ d : Byte, 0x31 ≤ d.toNat ∧ d.toNat ≤ 0x38 ∧
      parseResponse text = { st := .done, rpKind := some .error, rpCode := some (BitVec.ofNat 4 (d.toNat - 0x30)) }) ∨
    (∃ body, body.length ≤ text.length ∧
      parseResponse text = { st := .done, rpKind := some .value, rpValue := some body }) := by
  unfold parseResponse
  split
  · exact .inl rfl
  · rename_i body hb
    rcases parseBody_cases body with h | h | h | h
    · exact .inl h
    · exact .inr (.inl h)
    · exact .inr (.inr (.inl h))
    · exact .inr (.inr (.inr ⟨body, responseBody_length _ _ hb, h⟩))

/-- R165. -/
theorem execRespParse_answers (text : Bytes) (s : State) :
    Answers (execRespParse text s) s fun r =>
      r = faultResponse .operandTooLong ∨ (text.length ≤ s.config.operandMax ∧ r = parseResponse text) := by
  unfold execRespParse
  split
  · exact answers_raise _ _ _ (.inl rfl)
  · rename_i h
    exact answers_complete _ _ _ (.inr ⟨by simpa [tooLong] using h, rfl⟩)

/-- R65, R170: a description is at most 28 bytes long. -/
theorem errorText_length (n : Nat) (text : Bytes) (h : errorText n = some text) : text.length ≤ 28 := by
  unfold errorText at h
  split at h <;> first | (cases h; decide) | cases h

/-- R170. -/
theorem execErrDesc_answers (e : BitVec 4) (s : State) :
    Answers (execErrDesc e s) s fun r =>
      r = faultResponse .codeOutOfRange ∨ ∃ text, errorText e.toNat = some text ∧ r = { st := .done, out := some text } := by
  unfold execErrDesc
  split
  · exact answers_complete _ _ _ (.inr ⟨_, ‹_›, rfl⟩)
  · exact answers_raise _ _ _ (.inl rfl)

/-- R175. -/
theorem execDecToU16_answers (text : Bytes) (s : State) :
    Answers (execDecToU16 text s) s fun r =>
      r = faultResponse .operandTooLong ∨ r = faultResponse .notANumber ∨ ∃ w, r = { st := .done, w := some w } := by
  unfold execDecToU16
  split
  · exact answers_raise _ _ _ (.inl rfl)
  · split
    · exact answers_raise _ _ _ (.inr (.inl rfl))
    · split
      · exact answers_raise _ _ _ (.inr (.inl rfl))
      · split
        · exact answers_raise _ _ _ (.inr (.inl rfl))
        · exact answers_complete _ _ _ (.inr (.inr ⟨_, rfl⟩))

/-- R130: the three things a pushed byte does. -/
theorem execRxPush_cases (c : Byte) (s : State) :
    (c = lf ∧ s.rxPrevCr = true ∧ execRxPush c s = .next (s.stripLf.respond noFrameResponse)) ∨
    (isTerminator c = true ∧ execRxPush c s = .next ((s.endFrame (c == cr)).respond (frameResponse (s.frameEnded c)))) ∨
    (isTerminator c = false ∧ execRxPush c s = .next ((s.collect c).respond noFrameResponse)) := by
  unfold execRxPush
  split
  · rename_i h; exact .inl ⟨h.1, h.2, rfl⟩
  · split
    · rename_i h; exact .inr (.inl ⟨by simpa [isTerminator] using h, rfl⟩)
    · rename_i h; exact .inr (.inr ⟨by simpa [isTerminator] using h, rfl⟩)

/-- R191. -/
theorem execCfgSetAddr_cases (a : Bytes) (s : State) :
    Answers (execCfgSetAddr a s) s (isFaultOf [.operandTooLong, .badAddress]) ∨
    ∃ addr, a = addr.bytes ∧ legalAddr addr = true ∧ execCfgSetAddr a s = .next ((s.setAddr addr).respond { st := .done }) := by
  unfold execCfgSetAddr
  split
  · exact .inl (answers_raise _ _ _ ⟨_, by simp, rfl⟩)
  · split
    · exact .inl (answers_raise _ _ _ ⟨_, by simp, rfl⟩)
    · rename_i addr h
      rw [legalAddress_eq_some] at h
      exact .inr ⟨addr, h.1, h.2, rfl⟩

/-- R192. -/
theorem execCfgGetAddr_answers (s : State) :
    Answers (execCfgGetAddr s) s fun r => r = { st := .done, out := some s.cfgAddr.bytes } := answers_complete _ _ _ rfl

/-- R193. -/
theorem execReserved_answers (s : State) : Answers (execReserved s) s fun r => r = faultResponse .illegalOp :=
  answers_raise _ _ _ rfl

/-- R75, R126: a keyword command is a FRAME_PARSE. -/
theorem commandAlone_answers (keyword : Bytes) (s : State) :
    Answers (commandAlone keyword s) s fun r =>
      r = faultResponse .operandTooLong ∨
        ((oneTokenFrame s.cfgAddr keyword).length ≤ s.config.operandMax ∧
          r = frameResponse (s.parse (oneTokenFrame s.cfgAddr keyword))) :=
  parseFrame_answers _ _

/-- The arm of every keyword instruction. -/
theorem exec_keyword (i : Instr) (t : Bytes) (s : State) (h : encode i = .keyword t) : exec i s = commandAlone t s := by
  cases i <;> simp only [encode, Encoded.keyword.injEq, reduceCtorEq] at h
  all_goals (subst h; rfl)

end Sys2Proof.Machine
end

