-- ==== Sys2Proof/Laws/PerInstr.lean ====
section
/-! SUPPORT. Laws stated per instruction. TableRow: the bits spec/opcode_table.json gives an instruction's encoding are a word of the
table, and what the decoder reads from them has those same bits: no two rows share a word. -/

namespace Sys2Proof.Laws.TableRow

/-- The table bits of a well-formed instruction decode, to an instruction with the same table bits. -/
def Statement (i : Instr) : Prop :=
  i.wellFormed = true → ∃ j, decodeTableWord (tableWordOf (encode i)).1 (tableWordOf (encode i)).2 = some j ∧
    tableWordOf (encode j) = tableWordOf (encode i)

theorem swEncode (f : Flags) : Statement (.swEncode f) := fun _ => ⟨_, rfl, rfl⟩

theorem swDecode (w : Word16) : Statement (.swDecode w) := fun _ => ⟨_, rfl, rfl⟩

theorem cmdEncode (a kw : Bytes) (g : Option Bytes) : Statement (.cmdEncode a kw g) := fun _ => ⟨_, rfl, rfl⟩

theorem frameParse (text : Bytes) : Statement (.frameParse text) := fun _ => ⟨_, rfl, rfl⟩

theorem respFormat (k : RespOperand) : Statement (.respFormat k) := by
  cases k <;> exact fun _ => ⟨_, rfl, rfl⟩

theorem respParse (text : Bytes) : Statement (.respParse text) := fun _ => ⟨_, rfl, rfl⟩

theorem errDesc (e : BitVec 4) : Statement (.errDesc e) := fun _ => ⟨_, rfl, rfl⟩

theorem decToU16 (text : Bytes) : Statement (.decToU16 text) := fun _ => ⟨_, rfl, rfl⟩

theorem rxPush (c : Byte) : Statement (.rxPush c) := fun _ => ⟨_, rfl, rfl⟩

theorem rxReset : Statement .rxReset := fun _ => ⟨_, rfl, rfl⟩

theorem cfgSetAddr (a : Bytes) : Statement (.cfgSetAddr a) := fun _ => ⟨_, rfl, rfl⟩

theorem cfgGetAddr : Statement .cfgGetAddr := fun _ => ⟨_, rfl, rfl⟩

theorem reserved (op : BitVec 4) : Statement (.reserved op) := by
  revert op
  simp only [Statement, Instr.wellFormed, encode, tableWordOf, decodeTableWord, encodedOfTableWord, decode]
  intro op h
  refine ⟨_, rfl, ?_⟩
  revert op
  decide

theorem kwBC : Statement .kwBC := fun _ => ⟨_, rfl, rfl⟩

theorem kwDC : Statement .kwDC := fun _ => ⟨_, rfl, rfl⟩

theorem kwDT : Statement .kwDT := fun _ => ⟨_, rfl, rfl⟩

theorem kwDW : Statement .kwDW := fun _ => ⟨_, rfl, rfl⟩

theorem kwEC : Statement .kwEC := fun _ => ⟨_, rfl, rfl⟩

theorem kwEM : Statement .kwEM := fun _ => ⟨_, rfl, rfl⟩

theorem kwEN : Statement .kwEN := fun _ => ⟨_, rfl, rfl⟩

theorem kwFL : Statement .kwFL := fun _ => ⟨_, rfl, rfl⟩

theorem kwPE : Statement .kwPE := fun _ => ⟨_, rfl, rfl⟩

theorem kwPM : Statement .kwPM := fun _ => ⟨_, rfl, rfl⟩

theorem kwRC : Statement .kwRC := fun _ => ⟨_, rfl, rfl⟩

theorem kwSV : Statement .kwSV := fun _ => ⟨_, rfl, rfl⟩

theorem kwRR : Statement .kwRR := fun _ => ⟨_, rfl, rfl⟩

theorem kwUC : Statement .kwUC := fun _ => ⟨_, rfl, rfl⟩

theorem kwRS : Statement .kwRS := fun _ => ⟨_, rfl, rfl⟩

theorem kwBV : Statement .kwBV := fun _ => ⟨_, rfl, rfl⟩

theorem kwFT : Statement .kwFT := fun _ => ⟨_, rfl, rfl⟩

theorem kwFV : Statement .kwFV := fun _ => ⟨_, rfl, rfl⟩

theorem kwID : Statement .kwID := fun _ => ⟨_, rfl, rfl⟩

theorem kwIM : Statement .kwIM := fun _ => ⟨_, rfl, rfl⟩

theorem kwLS : Statement .kwLS := fun _ => ⟨_, rfl, rfl⟩

theorem kwPEMin : Statement .kwPEMin := fun _ => ⟨_, rfl, rfl⟩

theorem kwPEMax : Statement .kwPEMax := fun _ => ⟨_, rfl, rfl⟩

theorem kwRRMin : Statement .kwRRMin := fun _ => ⟨_, rfl, rfl⟩

theorem kwRRMax : Statement .kwRRMax := fun _ => ⟨_, rfl, rfl⟩

theorem kwSC : Statement .kwSC := fun _ => ⟨_, rfl, rfl⟩

theorem kwSS : Statement .kwSS := fun _ => ⟨_, rfl, rfl⟩

theorem kwTRMin : Statement .kwTRMin := fun _ => ⟨_, rfl, rfl⟩

theorem kwTRMax : Statement .kwTRMax := fun _ => ⟨_, rfl, rfl⟩

theorem kwDCMin : Statement .kwDCMin := fun _ => ⟨_, rfl, rfl⟩

end Sys2Proof.Laws.TableRow
end

