-- ==== Sys2Proof/Tests/Slice0.lean ====
section
/-! SUPPORT. Tests of the model on words, requests and responses that spec/ writes out (95_test_vectors.md and the encoding tables of
30_encoding.md), and, for each statement with hypotheses, a concrete state and operands that meet them together. -/

namespace Sys2Proof.Tests

open Sys2Proof Sys2Proof.Machine

/-! ### Helpers -/

/-- The response of an outcome. -/
def answer : Result → Option Response
  | .next s => s.response
  | .fault _ => none
  | .refused _ => none

/-- The state an outcome leaves. -/
def stateAfter : Result → Option State
  | .next s => some s
  | .fault _ => none
  | .refused _ => none

/-- The block with a partial frame in its assembler. -/
def partway : State := { State.reset with rxBuf := [0x3B, 0x4C, 0x41, 0x3A, 0x53] }

/-- The block right after a frame-ending CR. -/
def afterCr : State := { State.reset with rxPrevCr := true }

/-- The block with a full assembler and a byte dropped. -/
def overflowed : State := { State.reset with rxBuf := List.replicate 64 0x41, rxOvf := true }

/-! ### Well-formedness -/

theorem test_reserved_selector_in_use_is_ill_formed : (Instr.reserved 0xB).wellFormed = false := by decide

theorem test_reserved_selector_is_well_formed : (Instr.reserved 0xC).wellFormed = true := by decide

/-! ### Decoding: the selectors of R61, then the keyword bytes of R75 -/

theorem test_decode_selectors_of_the_codecs :
    [0x0, 0x1, 0x2, 0x3, 0x4, 0x5, 0x6, 0x7].map (decodeTableWord 8) =
      [some (.swEncode {}), some (.swDecode 0), some (.cmdEncode [] [] none), some (.frameParse []), some (.respFormat .ok), some (.respParse []), some (.errDesc 0), some (.decToU16 [])] := by decide

theorem test_decode_selectors_of_assembler_and_configuration :
    [0x8, 0x9, 0xA, 0xB, 0xC, 0xD, 0xE, 0xF].map (decodeTableWord 8) =
      [some (.rxPush 0), some .rxReset, some (.cfgSetAddr []), some .cfgGetAddr, some (.reserved 0xC), some (.reserved 0xD), some (.reserved 0xE), some (.reserved 0xF)] := by decide

theorem test_decode_arg_keywords_of_2_bytes :
    [0x4243, 0x4443, 0x4454, 0x4457, 0x4543, 0x454D, 0x454E, 0x464C, 0x5045, 0x504D, 0x5243, 0x5356, 0x5252, 0x5543].map (decodeTableWord 16) =
      [some .kwBC, some .kwDC, some .kwDT, some .kwDW, some .kwEC, some .kwEM, some .kwEN, some .kwFL, some .kwPE, some .kwPM, some .kwRC, some .kwSV, some .kwRR, some .kwUC] := by decide

theorem test_decode_only_keywords_of_2_bytes :
    [0x5253].map (decodeTableWord 16) =
      [some .kwRS] := by decide

theorem test_decode_query_only_keywords_of_2_bytes :
    [0x4256, 0x4654, 0x4656, 0x4944, 0x494D, 0x4C53, 0x5343, 0x5353].map (decodeTableWord 16) =
      [some .kwBV, some .kwFT, some .kwFV, some .kwID, some .kwIM, some .kwLS, some .kwSC, some .kwSS] := by decide

theorem test_decode_query_only_keywords_of_6_bytes :
    [0x50453A4D494E, 0x50453A4D4158, 0x52523A4D494E, 0x52523A4D4158, 0x54523A4D494E, 0x54523A4D4158, 0x44433A4D494E].map (decodeTableWord 48) =
      [some .kwPEMin, some .kwPEMax, some .kwRRMin, some .kwRRMax, some .kwTRMin, some .kwTRMax, some .kwDCMin] := by decide

/-- R76: `ss` and `DC:MAX` are no rows. -/
theorem test_unknown_keywords_are_turned_away :
    decode (.keyword [0x73, 0x73]) = .error (.unknownKeyword [0x73, 0x73]) ∧ decodeTableWord 48 0x44433A4D4158 = none := by decide

/-- 95 program 1, step 1: `OP=0x8, BYTE=3B`. -/
theorem test_decode_a_push : decode (.request { op := 0x8, byte := 0x3B }) = .ok (.rxPush 0x3B) := by decide

/-- 95 program 2, step 4: `OP=0x4, K=3, E=1`. -/
theorem test_decode_an_error_response : decode (.request { op := 0x4, k := 3, e := 1 }) = .ok (.respFormat (.error 1)) := by decide

/-- The keyword bytes of the decoder (hex column of R75) are those of KW_TABLE (keyword column of R75). -/
theorem test_keyword_columns_agree :
    keywordTable.map (fun row => (decodeKeyword row.keyword).toOption.isSome) = List.replicate 30 true := by decide

/-! ### One step of each instruction -/

/-- S-13, S-14. -/
theorem test_sw_encode :
    packFlags ⟨true, true, true, true, true, true, true, true, true, true, true⟩ = 16331 ∧
    answer (exec (.swEncode { lowPowerMode := true, highPowerMode := true }) State.reset) =
      some { st := .done, w := some 12288 } := by decide

/-- L1-7, 0x1234. -/
theorem test_sw_decode :
    answer (exec (.swDecode 0x1234) State.reset) =
      some { st := .done, f := some { powerFailure := true, lowPowerMode := true } } := by decide

/-- C-01. -/
theorem test_cmd_encode :
    answer (exec (.cmdEncode [0x4C, 0x41] [0x45, 0x4E] (some [0x31])) State.reset) =
      some { st := .done, out := some [0x3B, 0x4C, 0x41, 0x3A, 0x45, 0x4E, 0x20, 0x31, 0x0D] } := by decide

/-- C-08. -/
theorem test_cmd_encode_needs_a_keyword :
    answer (exec (.cmdEncode [0x4C, 0x41] [] (some [0x31])) State.reset) = some { st := .fault .malformedCommand } := by decide

/-- T-35: whitespace around and between the tokens. -/
theorem test_frame_parse_action :
    answer (exec (.frameParse [0x3B, 0x4C, 0x41, 0x3A, 0x09, 0x45, 0x4E, 0x09, 0x31, 0x20, 0x0D]) State.reset) =
      some { st := .done, rxr := some .frame, frKind := some .actionArg, frAddr := some ⟨0x4C, 0x41⟩, frKw := some [0x45, 0x4E],
             frArg := some (some [0x31]) } := by decide

/-- T-30: a payload with `?` is never an action. -/
theorem test_frame_parse_query_with_argument :
    answer (exec (.frameParse [0x3B, 0x4C, 0x41, 0x3A, 0x42, 0x43, 0x20, 0x35, 0x3F, 0x0D]) State.reset) =
      some { st := .done, rxr := some .perr, peReason := some .unrecognizedKeyword, pcode := some 3 } := by decide

/-- R-04. -/
theorem test_resp_format_word :
    answer (exec (.respFormat (.valueU16 65535)) State.reset) =
      some { st := .done, out := some [0x36, 0x35, 0x35, 0x33, 0x35, 0x0D, 0x0A] } := by decide

/-- R-25. -/
theorem test_resp_format_code_out_of_range :
    answer (exec (.respFormat (.error 9)) State.reset) = some { st := .fault .codeOutOfRange } := by decide

/-- P-14. -/
theorem test_resp_parse_error :
    answer (exec (.respParse [0x3F, 0x35, 0x0A]) State.reset) =
      some { st := .done, rpKind := some .error, rpCode := some 5 } := by decide

/-- P-24: LF CR is no terminator of a response. -/
theorem test_resp_parse_lf_cr :
    answer (exec (.respParse [0x4F, 0x4B, 0x0A, 0x0D]) State.reset) = some { st := .done, rpKind := some .malformed } := by decide

/-- E-07, E-10. -/
theorem test_err_desc :
    ((answer (exec (.errDesc 6) State.reset)).bind fun r => r.out.map List.length) = some 28 ∧
    answer (exec (.errDesc 9) State.reset) = some { st := .fault .codeOutOfRange } := by decide

/-- D-03, D-05. -/
theorem test_dec_to_u16 :
    answer (exec (.decToU16 [0x30, 0x30, 0x30, 0x31, 0x32]) State.reset) = some { st := .done, w := some 12 } ∧
    answer (exec (.decToU16 [0x36, 0x35, 0x35, 0x33, 0x36]) State.reset) = some { st := .fault .notANumber } := by decide

/-- X-04: the LF after a frame-ending CR is stripped, and only that one. -/
theorem test_rx_push_strips_one_lf :
    answer (exec (.rxPush 0x0A) afterCr) = some { st := .done, rxr := some .noFrame } ∧
    answer (exec (.rxPush 0x0A) State.reset) =
      some { st := .done, rxr := some .perr, peReason := some .addressMismatch, pcode := some 1 } := by decide

/-- X-08: an overflowed frame ends as RX_OVERFLOW and leaves the assembler empty. -/
theorem test_rx_push_ends_an_overflowed_frame :
    stateAfter (exec (.rxPush 0x0D) overflowed) = some { State.reset with
      rxPrevCr := true,
      response := some { st := .done, rxr := some .perr, peReason := some .rxOverflow, pcode := some 1 } } := by decide

/-- X-10. -/
theorem test_rx_reset :
    stateAfter (exec .rxReset partway) = some { State.reset with response := some { st := .done } } := by decide

/-- G-13, G-07. -/
theorem test_cfg_set_addr :
    (stateAfter (exec (.cfgSetAddr [0x21, 0x7E]) State.reset)).map State.cfgAddr = some ⟨0x21, 0x7E⟩ ∧
    stateAfter (exec (.cfgSetAddr [0x4C, 0x3A]) State.reset) =
      some { State.reset with response := some { st := .fault .badAddress } } := by decide

/-- G-01. -/
theorem test_cfg_get_addr :
    answer (exec .cfgGetAddr State.reset) = some { st := .done, out := some [0x4C, 0x41] } := by decide

/-- G-18: a reserved selector keeps the assembler. -/
theorem test_reserved :
    stateAfter (exec (.reserved 0xD) partway) = some { partway with response := some { st := .fault .illegalOp } } := by decide

/-- L1-8, the ARG rows. -/
theorem test_arg_keywords_alone :
    [Instr.kwBC, .kwDC, .kwDT, .kwDW, .kwEC, .kwEM, .kwEN, .kwFL, .kwPE, .kwPM, .kwRC, .kwSV, .kwRR, .kwUC].map
        (fun i => ((answer (exec i State.reset)).bind fun r => r.pcode)) =
      List.replicate 14 (some 5) := by decide

/-- L1-4: `;LA:RS` CR is an accepted action, and the block's own state is unchanged. -/
theorem test_rs_alone :
    stateAfter (exec .kwRS partway) = some { partway with
      response := some { st := .done, rxr := some .frame, frKind := some .actionOnly, frAddr := some ⟨0x4C, 0x41⟩,
                         frKw := some [0x52, 0x53], frArg := some none } } := by decide

/-- L1-8, the QONLY rows. -/
theorem test_query_only_keywords_alone :
    [Instr.kwBV, .kwFT, .kwFV, .kwID, .kwIM, .kwLS, .kwPEMin, .kwPEMax, .kwRRMin, .kwRRMax, .kwSC, .kwSS, .kwTRMin, .kwTRMax,
        .kwDCMin].map (fun i => ((answer (exec i State.reset)).bind fun r => r.pcode)) =
      List.replicate 15 (some 6) := by decide

/-- T-38 through the keyword input: a token that is no row is parsed as its frame. -/
theorem test_unknown_token_is_its_frame :
    answer (step { State.reset with inputs := [.issue (.keyword [0x73, 0x73])] }) =
      some { st := .done, rxr := some .perr, peReason := some .unrecognizedKeyword, pcode := some 3 } := by decide

/-- A table word placed at reset is run by the next step. -/
theorem test_first_step_runs_the_placed_word :
    stateAfter (step (State.reset.withFetchWord 8 0xB)) =
      some { State.reset with response := some { st := .done, out := some [0x4C, 0x41] } } := by decide

/-- R231: the reset input loses the partial frame and answers nothing. -/
theorem test_reset_input :
    stateAfter (step { partway with cfgAddr := ⟨0x4C, 0x42⟩, inputs := [.reset] }) = some State.reset := by decide

/-- R63: on the port a response's unnamed fields are the idle ones. -/
theorem test_response_on_the_port :
    (frameResponse (.perr .rxOverflow)).onPort PortFields.zero = { PortFields.zero with rxr := 2, peReason := 7, pcode := 1 } := by
  decide

/-! ### Witnesses: each statement's hypotheses are met together -/

-- UnnamedRequestFieldsAreIgnored
theorem witness_unnamed_fields_differ :
    let r : Request := { op := 0x4, k := 1, s := [0x37], w := 5 }
    let q : Request := { op := 0x4, k := 1, s := [0x37], w := 9, e := 3, byte := 1 }
    r ≠ q ∧ r.op = q.op ∧ (r.op = 0x0 → r.f = q.f) ∧ (r.op = 0x1 → r.w = q.w) ∧
      (r.op = 0x2 → r.a = q.a ∧ r.kw = q.kw ∧ r.g = q.g) ∧ (r.op = 0x3 ∨ r.op = 0x5 ∨ r.op = 0x7 → r.s = q.s) ∧
      (r.op = 0x4 → r.k = q.k ∧ (r.k = 1 → r.s = q.s) ∧ (r.k = 2 → r.w = q.w) ∧ (r.k = 3 → r.e = q.e)) ∧
      (r.op = 0x6 → r.e = q.e) ∧ (r.op = 0x8 → r.byte = q.byte) ∧ (r.op = 0xA → r.a = q.a) := by decide

-- DecodeReadsBackEveryEncoding, StepRunsTheDecodedInstruction
theorem witness_well_formed_input_waits :
    (Instr.reserved 0xC).wellFormed = true ∧ (Instr.reserved 0xF).wellFormed = true ∧
    (State.reset.withFetchWord 8 0xC).inputs = .issue (encode (.reserved 0xC)) :: [] ∧
    decode (.request { op := 0xC }) = .ok (.reserved 0xC) ∧ State.reset.inputs = [] := by decide

-- ResetInputRestoresTheResetState
theorem witness_reset_input_waits : ({ partway with inputs := [.reset] } : State).inputs = .reset :: [] := by decide

-- KeywordTableHoldsTheThirtyRows, KeywordLookupIsExact
theorem witness_keywords_distinct_and_unknown :
    distinctKeywords [⟨[0x52, 0x53], .only⟩, ⟨[0x53, 0x53], .qonly⟩] ∧ ∀ row ∈ keywordTable, row.keyword ≠ [0x73, 0x73] := by
  decide

-- SwDecodeIgnoresReservedBits, StatusWordRoundTrips
theorem witness_reserved_bits :
    (0xC034 : Word16) &&& 0x3FCB = 0 ∧ (0x3FCB : Word16) &&& 0xC034 = 0 := by decide

-- FlagOrderDoesNotMatter
theorem witness_another_flag_order : flagOrder.reverse.Perm flagOrder ∧ flagOrder.reverse ≠ flagOrder :=
  ⟨List.reverse_perm _, by decide⟩

-- CmdEncodeBuildsTheFrame, at the bounds of OPERAND_MAX (C-12 to C-15)
theorem witness_cmd_encode_long_address : State.reset.config.operandMax < (List.replicate 257 (0x41 : Byte)).length := by
  rw [List.length_replicate]; decide

theorem witness_cmd_encode_frame_of_256_bytes :
    ([0x3B] ++ [0x4C, 0x41] ++ [0x3A] ++ List.replicate 251 (0x41 : Byte) ++ [0x0D]).length = State.reset.config.operandMax := by
  simp only [List.length_append, List.length_replicate]; decide

theorem witness_cmd_encode_frame_of_257_bytes :
    ¬ State.reset.config.operandMax < (List.replicate 252 (0x41 : Byte)).length ∧
    State.reset.config.operandMax <
      ([0x3B] ++ [0x4C, 0x41] ++ [0x3A] ++ List.replicate 252 (0x41 : Byte) ++ [0x0D]).length := by
  simp only [List.length_append, List.length_replicate]; decide

-- BuiltFrameParsesBack, its three clauses
theorem witness_built_action :
    legalAddr State.reset.cfgAddr = true ∧ isSpace State.reset.config.ws 0x20 = true ∧
    cleanToken State.reset.config.ws [0x45, 0x4E] ∧ cleanToken State.reset.config.ws [0x31] ∧
    stateAfter (exec (.cmdEncode State.reset.cfgAddr.bytes [0x45, 0x4E] (some [0x31])) State.reset) =
      some (State.reset.respond { st := .done, out := some [0x3B, 0x4C, 0x41, 0x3A, 0x45, 0x4E, 0x20, 0x31, 0x0D] }) := by decide

theorem witness_built_query :
    cleanToken State.reset.config.ws [0x53, 0x53] ∧
    stateAfter (exec (.cmdEncode State.reset.cfgAddr.bytes ([0x53, 0x53] ++ [0x3F]) none) State.reset) =
      some (State.reset.respond { st := .done, out := some [0x3B, 0x4C, 0x41, 0x3A, 0x53, 0x53, 0x3F, 0x0D] }) := by decide

theorem witness_built_action_only :
    cleanToken State.reset.config.ws [0x52, 0x53] ∧ keywordClass State.reset.kwTable [0x52, 0x53] = some .only ∧
    stateAfter (exec (.cmdEncode State.reset.cfgAddr.bytes [0x52, 0x53] none) State.reset) =
      some (State.reset.respond { st := .done, out := some [0x3B, 0x4C, 0x41, 0x3A, 0x52, 0x53, 0x0D] }) := by decide

-- FrameParseAnswersTheParse: too long, a frame, an error
theorem witness_frame_of_257_bytes : State.reset.config.operandMax < (List.replicate 257 (0x3B : Byte)).length := by
  rw [List.length_replicate]; decide

theorem witness_parse_gives_a_frame :
    parse State.reset.config.ws State.reset.kwTable State.reset.cfgAddr [0x3B, 0x4C, 0x41, 0x3A, 0x53, 0x53, 0x3F, 0x0D] =
      .frame .query ⟨0x4C, 0x41⟩ [0x53, 0x53] none ∧
    ([0x3B, 0x4C, 0x41, 0x3A, 0x53, 0x53, 0x3F, 0x0D] : Bytes).length ≤ State.reset.config.operandMax := by decide

theorem witness_parse_gives_an_error :
    parse State.reset.config.ws State.reset.kwTable State.reset.cfgAddr [] = .perr .addressMismatch ∧
    ([] : Bytes).length ≤ State.reset.config.operandMax := by decide

-- TokensAreTheMaximalRuns
theorem witness_whitespace_and_word :
    (0x20 : Byte) ∈ Config.default.ws ∧ ([0x45, 0x4E] : Bytes) ≠ [] ∧ ∀ b ∈ ([0x45, 0x4E] : Bytes), b ∉ Config.default.ws := by decide

-- FrameMustCarryTheConfiguredAddress: no colon (T-24), another address (T-07), the right one
theorem witness_frame_without_colon :
    ∀ b ∈ ([0x3B, 0x4C, 0x41, 0x20, 0x53, 0x53, 0x3F, 0x0D] : Bytes), b ≠ 0x3A := by decide

theorem witness_frame_for_another_address :
    ([0x3B, 0x4C, 0x42, 0x3A, 0x0D] : Bytes) = [0x3B, 0x4C, 0x42] ++ 0x3A :: [0x0D] ∧
    (∀ b ∈ ([0x3B, 0x4C, 0x42] : Bytes), b ≠ 0x3A) ∧
    ([0x3B, 0x4C, 0x42] : Bytes) ≠ [0x3B] ++ State.reset.cfgAddr.bytes := by decide

theorem witness_frame_for_this_address :
    legalAddr State.reset.cfgAddr = true ∧
    ([0x3B, 0x4C, 0x41, 0x3A, 0x0D] : Bytes) = [0x3B] ++ State.reset.cfgAddr.bytes ++ 0x3A :: [0x0D] := by decide

-- PayloadEndsAtTheFirstTerminator: T-05, and T-45
theorem witness_remainder_without_terminator :
    legalAddr State.reset.cfgAddr = true ∧ (∀ b ∈ ([] : Bytes), b ≠ 0x0D ∧ b ≠ 0x0A) ∧
    (State.reset.header ++ []).length ≤ State.reset.config.operandMax := by decide

theorem witness_remainder_with_terminator :
    (∀ b ∈ ([0x52, 0x53] : Bytes), b ≠ 0x0D ∧ b ≠ 0x0A) ∧ ((0x0A : Byte) = 0x0D ∨ (0x0A : Byte) = 0x0A) ∧
    (State.reset.header ++ [0x52, 0x53] ++ 0x0A :: [0x53]).length ≤ State.reset.config.operandMax := by decide

-- QueryFormIsOneKeywordBeforeTheMark: no token, two tokens, text after the mark, the query (T-27, T-31, T-29, T-28)
theorem witness_query_clauses :
    legalAddr State.reset.cfgAddr = true ∧
    (State.reset.header ++ [0x41, 0x20, 0x42] ++ 0x3F :: [0x78] ++ 0x0D :: []).length ≤ State.reset.config.operandMax ∧
    (∀ b ∈ ([0x41, 0x20, 0x42] : Bytes), b ≠ 0x0D ∧ b ≠ 0x0A ∧ b ≠ 0x3F) ∧ (∀ b ∈ ([0x78] : Bytes), b ≠ 0x0D ∧ b ≠ 0x0A) ∧
    tokens State.reset.config.ws [] = [] ∧
    2 ≤ (tokens State.reset.config.ws [0x41, 0x20, 0x42]).length ∧
    tokens State.reset.config.ws [0x53, 0x53] ≠ [] ∧ tokens State.reset.config.ws [0x78] ≠ [] ∧
    tokens State.reset.config.ws [0x20, 0x53, 0x53, 0x20] = [[0x53, 0x53]] := by decide

-- ActionFormIsClassifiedByItsTokens: no token, one of each class, two, three (T-34, T-10, T-13, T-14, T-15, T-11, T-16)
theorem witness_action_clauses :
    legalAddr State.reset.cfgAddr = true ∧
    (State.reset.header ++ [0x45, 0x4E, 0x20, 0x31, 0x20, 0x32] ++ 0x0D :: []).length ≤ State.reset.config.operandMax ∧
    (∀ b ∈ ([0x45, 0x4E, 0x20, 0x31, 0x20, 0x32] : Bytes), b ≠ 0x0D ∧ b ≠ 0x0A ∧ b ≠ 0x3F) ∧
    tokens State.reset.config.ws [0x20, 0x20] = [] ∧
    tokens State.reset.config.ws [0x52, 0x53] = [[0x52, 0x53]] ∧
    keywordClass State.reset.kwTable [0x52, 0x53] = some .only ∧ keywordClass State.reset.kwTable [0x45, 0x4E] = some .arg ∧
    keywordClass State.reset.kwTable [0x53, 0x53] = some .qonly ∧ keywordClass State.reset.kwTable [0x58, 0x59] = none ∧
    tokens State.reset.config.ws [0x45, 0x4E, 0x20, 0x31] = [[0x45, 0x4E], [0x31]] ∧
    3 ≤ (tokens State.reset.config.ws [0x45, 0x4E, 0x20, 0x31, 0x20, 0x32]).length := by decide

-- ParseLaws
theorem witness_parse_laws :
    legalAddr ⟨0x21, 0x7E⟩ = true ∧ (∀ b ∈ ([0x3B, 0x21, 0x7E, 0x3A, 0x52, 0x53] : Bytes), b ≠ 0x0D ∧ b ≠ 0x0A) ∧
    parse Config.default.ws keywordTable ⟨0x21, 0x7E⟩ [0x3B, 0x21, 0x7E, 0x3A, 0x52, 0x53, 0x20, 0x35, 0x0D] =
      .frame .actionArg ⟨0x21, 0x7E⟩ [0x52, 0x53] (some [0x35]) ∧
    parse Config.default.ws keywordTable ⟨0x21, 0x7E⟩ [0x3B, 0x21, 0x7E, 0x3A, 0x0D] = .perr .missingKeyword := by decide

-- KeywordCommandIsItsOneTokenFrame, and the three statements of keywords alone
theorem witness_keyword_alone :
    encode .kwDCMin = .keyword [0x44, 0x43, 0x3A, 0x4D, 0x49, 0x4E] ∧
    legalAddr State.reset.cfgAddr = true ∧ State.reset.kwTable = keywordTable ∧
    State.reset.config.ws = [0x09, 0x0B, 0x0C, 0x20] ∧ 11 ≤ State.reset.config.operandMax := by decide

-- RxPushCollectsAndEndsFrames, its five clauses at their bounds
theorem witness_push_clauses :
    afterCr.rxPrevCr = true ∧ overflowed.rxOvf = true ∧ (State.reset.rxPrevCr = false ∧ State.reset.rxOvf = false) ∧
    ({ State.reset with rxBuf := List.replicate 63 0x41 } : State).rxBuf.length < State.reset.config.rxCap ∧
    overflowed.config.rxCap ≤ overflowed.rxBuf.length ∧ (0x41 : Byte) ≠ 0x0D ∧ (0x41 : Byte) ≠ 0x0A := by decide

-- AssemblerAgreesWithFrameParse: a frame of exactly RX_CAP bytes
theorem witness_frame_that_fits :
    let s : State := { State.reset with rxPrevCr := true, inputs := pushes (List.replicate 64 0x41 ++ [0x0D, 0x0A]) ++ [.reset] }
    s.rxBuf = [] ∧ s.rxOvf = false ∧ (List.replicate 64 (0x41 : Byte)) ≠ [] ∧
    (∀ b ∈ List.replicate 64 (0x41 : Byte), b ≠ 0x0D ∧ b ≠ 0x0A) ∧ (List.replicate 64 (0x41 : Byte)).length ≤ s.config.rxCap ∧
    s.inputs = pushes (List.replicate 64 0x41 ++ [0x0D, 0x0A]) ++ [.reset] ∧
    (List.replicate 64 (0x41 : Byte) ++ [0x0D, 0x0A]).length ≤ s.config.operandMax := by decide

-- OverlongFrameEndsAsOverflow: one byte more
theorem witness_frame_one_byte_too_long :
    let s : State := { State.reset with inputs := pushes (List.replicate 65 0x41 ++ [0x0A]) ++ [] }
    s.rxBuf = [] ∧ s.rxOvf = false ∧ (∀ b ∈ List.replicate 65 (0x41 : Byte), b ≠ 0x0D ∧ b ≠ 0x0A) ∧
    s.config.rxCap < (List.replicate 65 (0x41 : Byte)).length ∧ s.inputs = pushes (List.replicate 65 0x41 ++ [0x0A]) ++ [] := by
  decide

-- FrameIsCheckedAgainstTheAddressAtItsEnd: X-12, and a lone LF
theorem witness_address_changes_mid_frame :
    let s : State := { partway with inputs := .issue (.request { op := 0xA, a := [0x4C, 0x42] }) :: pushes [0x0A] ++ [] }
    legalAddr ⟨0x4C, 0x42⟩ = true ∧ 2 ≤ s.config.operandMax ∧ s.rxOvf = false ∧ s.rxPrevCr = false ∧
    s.inputs = .issue (.request { op := 0xA, a := [0x4C, 0x42] }) :: pushes [0x0A] ++ [] := by decide

-- RespFormatWritesTheLine: R-10 to R-15, R-27 to R-29, R-16, R-23 to R-25
theorem witness_value_text_refused :
    ([0x31, 0x0D, 0x32] : Bytes).length ≤ State.reset.config.operandMax ∧ (0x0D : Byte) ∈ ([0x31, 0x0D, 0x32] : Bytes) ∧
    (0x0A : Byte) ∈ ([0x31, 0x32, 0x0A] : Bytes) ∧ ([0x3F, 0x35] : Bytes).head? = some 0x3F := by decide

theorem witness_value_text_written :
    ([0x4F, 0x6B] : Bytes) ≠ [] ∧ (0x0D : Byte) ∉ ([0x4F, 0x6B] : Bytes) ∧ (0x0A : Byte) ∉ ([0x4F, 0x6B] : Bytes) ∧
    ([0x4F, 0x6B] : Bytes).head? ≠ some 0x3F ∧ ([0x4F, 0x6B] : Bytes) ≠ [0x4F, 0x4B] ∧ ([0x4F, 0x6B] : Bytes) ≠ [0x6F, 0x6B] ∧
    ([0x4F, 0x6B] : Bytes).length + 2 ≤ State.reset.config.operandMax := by decide

theorem witness_value_text_with_no_room_for_its_terminator :
    let s : State := { State.reset with config := { Config.default with operandMax := 3 } }
    let text : Bytes := [0x37, 0x37]
    text.length ≤ s.config.operandMax ∧ text ≠ [] ∧ 0x0D ∉ text ∧ 0x0A ∉ text ∧ text.head? ≠ some 0x3F ∧
    text ≠ [0x4F, 0x4B] ∧ text ≠ [0x6F, 0x6B] ∧ s.config.operandMax < text.length + 2 ∧
    s.config.operandMax < ([0x37, 0x37, 0x37, 0x37] : Bytes).length := by decide

theorem witness_error_codes :
    1 ≤ (8 : BitVec 4).toNat ∧ (8 : BitVec 4).toNat ≤ 8 ∧ (0 : BitVec 4).toNat = 0 ∧ 9 ≤ (9 : BitVec 4).toNat := by decide

-- DecimalTextIsCanonical
theorem witness_zero_and_not_zero : (0 : Word16) = 0 ∧ (10 : Word16) ≠ 0 := by decide

-- RespParseClassifiesTheLine: P-27, P-06, P-20, P-02, P-13, P-15, P-10
theorem witness_line_without_terminator :
    State.reset.config.operandMax < (List.replicate 257 (0x37 : Byte)).length ∧
    ([0x4F, 0x4B] : Bytes).length ≤ State.reset.config.operandMax ∧
    ([0x4F, 0x4B] : Bytes).getLast? ≠ some 0x0D ∧ ([0x4F, 0x4B] : Bytes).getLast? ≠ some 0x0A := by
  rw [List.length_replicate]; decide

theorem witness_line_clauses :
    lineWithBody [] [0x0D, 0x0A] ∧ lineWithBody [0x4F, 0x4B] [0x4F, 0x4B, 0x0D] ∧
    lineWithBody [0x3F, 0x38] [0x3F, 0x38, 0x0D, 0x0A] ∧ 0x31 ≤ (0x38 : Byte).toNat ∧ (0x38 : Byte).toNat ≤ 0x38 ∧
    lineWithBody [0x3F] [0x3F, 0x0D, 0x0A] ∧ ([0x3F] : Bytes).head? = some 0x3F ∧
    lineWithBody [0x4F, 0x6B] [0x4F, 0x6B, 0x0A] ∧ (0x0D : Byte) ∉ ([0x4F, 0x6B] : Bytes) ∧ (0x0A : Byte) ∉ ([0x4F, 0x6B] : Bytes) ∧
    ([0x4F, 0x6B] : Bytes) ≠ [0x4F, 0x4B] ∧ ([0x4F, 0x6B] : Bytes) ≠ [0x6F, 0x6B] ∧ ([0x4F, 0x6B] : Bytes).head? ≠ some 0x3F := by
  decide

theorem witness_malformed_error_line : ∀ d : Byte, ([0x3F, 0x39] : Bytes) = [0x3F, d] → ¬ (0x31 ≤ d.toNat ∧ d.toNat ≤ 0x38) := by
  decide

-- ResponseLinesRoundTrip, for each K: R-01, R-07, R-02, and the example of R160
theorem witness_response_line :
    partway.config = State.reset.config ∧
    stateAfter (exec (.respFormat .ok) State.reset) =
      some (State.reset.respond { st := .done, out := some [0x4F, 0x4B, 0x0D, 0x0A] }) ∧
    stateAfter (exec (.respFormat (.valueText [0x32, 0x2E, 0x30])) State.reset) =
      some (State.reset.respond { st := .done, out := some [0x32, 0x2E, 0x30, 0x0D, 0x0A] }) ∧
    stateAfter (exec (.respFormat (.valueU16 1024)) State.reset) =
      some (State.reset.respond { st := .done, out := some [0x31, 0x30, 0x32, 0x34, 0x0D, 0x0A] }) ∧
    stateAfter (exec (.respFormat (.error 8)) State.reset) =
      some (State.reset.respond { st := .done, out := some [0x3F, 0x38, 0x0D, 0x0A] }) ∧
    ([0x31, 0x30, 0x32, 0x34, 0x0D, 0x0A] : Bytes).length ≤ State.reset.config.operandMax := by decide

-- DecToU16ReadsDecimalText, DecimalTextRoundTrips: D-16, D-07, D-05, D-04
theorem witness_decimal_text_refused :
    State.reset.config.operandMax < (List.replicate 257 (0x30 : Byte)).length ∧
    ¬ (∀ b ∈ ([0x32, 0x2E, 0x30] : Bytes), 0x30 ≤ b.toNat ∧ b.toNat ≤ 0x39) ∧
    65535 < decimalValue [0x36, 0x35, 0x35, 0x33, 0x36] := by
  refine ⟨by rw [List.length_replicate]; decide, by decide, by decide⟩

theorem witness_decimal_text_read :
    ([0x36, 0x35, 0x35, 0x33, 0x35] : Bytes).length ≤ State.reset.config.operandMax ∧ ([0x36, 0x35, 0x35, 0x33, 0x35] : Bytes) ≠ [] ∧
    (∀ b ∈ ([0x36, 0x35, 0x35, 0x33, 0x35] : Bytes), 0x30 ≤ b.toNat ∧ b.toNat ≤ 0x39) ∧
    decimalValue [0x36, 0x35, 0x35, 0x33, 0x35] ≤ 65535 ∧
    (dec16 65535).length ≤ State.reset.config.operandMax := by decide

-- StatusReportTravelsAsDecimalText
theorem witness_status_report :
    7 ≤ State.reset.config.operandMax ∧ 7 ≤ partway.config.operandMax := by decide

-- CfgSetAddrTakesLegalAddresses: G-14, G-13, G-05, G-10
theorem witness_address_clauses :
    2 ≤ State.reset.config.operandMax ∧
    (0x21 ≤ (0x21 : Byte).toNat ∧ (0x21 : Byte).toNat ≤ 0x7E ∧ (0x21 : Byte) ≠ 0x3A) ∧
    (0x21 ≤ (0x7E : Byte).toNat ∧ (0x7E : Byte).toNat ≤ 0x7E ∧ (0x7E : Byte) ≠ 0x3A) ∧
    ([0x4C, 0x41, 0x42] : Bytes).length ≠ 2 ∧
    (∃ b ∈ ([0x4C, 0x7F] : Bytes), ¬ (0x21 ≤ b.toNat ∧ b.toNat ≤ 0x7E ∧ b ≠ 0x3A)) := by decide

-- ReservedSelectorIsIllegalOp
theorem witness_reserved_request_waits :
    0xC ≤ ({ op := 0xC, s := [0x41] } : Request).op.toNat ∧
    ({ State.reset with inputs := [.issue (.request { op := 0xC, s := [0x41] })] } : State).inputs =
      .issue (.request { op := 0xC, s := [0x41] }) :: [] := by decide

-- OtherOperationsHaveNoSideEffect: the same address, and an instruction that does not read it
theorem witness_side_effect_free :
    changesState .cfgGetAddr = false ∧ State.reset.config = partway.config ∧ State.reset.kwTable = partway.kwTable ∧
    State.reset.cfgAddr = partway.cfgAddr ∧ changesState (.errDesc 1) = false ∧ Instr.errDesc 1 ≠ .cfgGetAddr ∧
    (∀ x, Instr.errDesc 1 ≠ .frameParse x) ∧ ∀ x, encode (.errDesc 1) ≠ .keyword x := by
  refine ⟨by decide, by decide, by decide, by decide, by decide, by decide, by simp, by simp [encode]⟩

-- FaultsArePrecise, FaultsComeFromTheListedOperations, one operation for each fault
theorem witness_every_fault :
    answer (exec (.reserved 0xF) partway) = some { st := .fault .illegalOp } ∧
    answer (exec (.cmdEncode [] [] none) partway) = some { st := .fault .malformedCommand } ∧
    answer (exec (.respFormat (.valueText [])) partway) = some { st := .fault .badValue } ∧
    answer (exec (.errDesc 0) partway) = some { st := .fault .codeOutOfRange } ∧
    answer (exec (.decToU16 []) partway) = some { st := .fault .notANumber } ∧
    answer (exec (.cfgSetAddr []) partway) = some { st := .fault .badAddress } ∧
    answer (exec (.frameParse [0x3B]) { partway with config := { Config.default with operandMax := 0 } }) =
      some { st := .fault .operandTooLong } := by decide

-- StateIsWrittenOnlyAsTheTableSays, ResponseFieldsComeFromTheirOperations, ReservedCodesAreNeverProduced
theorem witness_state_is_written :
    (stateAfter (exec (.cfgSetAddr [0x4C, 0x42]) State.reset)).map State.cfgAddr ≠ some State.reset.cfgAddr ∧
    (stateAfter (exec (.rxPush 0x3B) State.reset)).map State.rxBuf ≠ some State.reset.rxBuf := by decide

-- StepKeepsTheStateInvariant, ResultsFitOperandMax: a state with a partial frame
theorem witness_partway_keeps_the_invariant : partway.Inv where
  addrLegal := by decide
  resetLegal := by decide
  roomForFrame := by decide
  bufFits := by decide
  bufOpen := by decide
  ovfFull := by decide
  prevCrEmpty := by decide
  keywordsDistinct := by decide

theorem witness_partway_step :
    28 ≤ partway.config.operandMax ∧ goesOn (step (partway.withFetchWord 8 0x9)) = true ∧
    ((answer (exec (.rxPush 0x0D) partway)).map Response.st) = some .done := by decide

end Sys2Proof.Tests
end

section
/-! PROOFS. The state invariant under every update, the search primitives as the library's, and the obligations of spec 00 from them. -/

namespace Sys2Proof.Machine

/-! ### The invariant under each update of the state -/

/-- The port's response is no part of the invariant. -/
theorem State.Inv.respond {s : State} (h : s.Inv) (r : Response) : (s.respond r).Inv := { h with }

/-- The host's waiting inputs are no part of the invariant. -/
theorem State.Inv.withInputs {s : State} (h : s.Inv) (rest : List HostInput) : { s with inputs := rest }.Inv := { h with }

/-- R191: only a legal address is ever written. -/
theorem State.Inv.setAddr {s : State} (h : s.Inv) {a : Addr} (ha : legalAddr a = true) : (s.setAddr a).Inv :=
  { h with addrLegal := ha }

/-- R130: an ended frame leaves the assembler empty, so RX_PREV_CR may be either. -/
theorem State.Inv.endFrame {s : State} (h : s.Inv) (endedByCr : Bool) : (s.endFrame endedByCr).Inv :=
  { h with
    bufFits := Nat.zero_le _
    bufOpen := by simp
    ovfFull := by simp
    prevCrEmpty := by simp }

/-- R131: clearing the assembler is ending a frame without a CR. -/
theorem State.Inv.clearAssembler {s : State} (h : s.Inv) : s.clearAssembler.Inv := h.endFrame false

/-- R130: stripping the LF only clears RX_PREV_CR. -/
theorem State.Inv.stripLf {s : State} (h : s.Inv) : s.stripLf.Inv := { h with prevCrEmpty := by simp }

/-- R230: the reset input restores an address that is legal, since the build's is. -/
theorem State.Inv.applyReset {s : State} (h : s.Inv) : s.applyReset.Inv :=
  { h.clearAssembler with addrLegal := h.resetLegal }

/-- R130: a byte of a frame is appended while there is room, and RX_OVF is set only when there is none. The bit was not set before
where there was room, since it is set only with a full buffer. -/
theorem State.Inv.collect {s : State} (h : s.Inv) {c : Byte} (hc : isTerminator c = false) : (s.collect c).Inv := by
  have hfits := h.bufFits
  unfold State.collect
  split
  · rename_i room
    exact { h with
      bufFits := by simpa using room
      bufOpen := fun b hb => by
        rcases List.mem_append.1 hb with hb | hb
        · exact h.bufOpen b hb
        · rwa [List.mem_singleton.1 hb]
      ovfFull := fun hovf => absurd (h.ovfFull hovf) (Nat.ne_of_lt room)
      prevCrEmpty := by simp }
  · rename_i full
    exact { h with
      ovfFull := fun _ => Nat.le_antisymm hfits (Nat.le_of_not_lt full)
      prevCrEmpty := by simp }

/-! ### The invariant under each instruction and each step -/

/-- An operation that answers goes on with a response on the port and nothing else changed. -/
theorem Answers.next {x : Result} {s : State} {ok : Response → Prop} (h : Answers x s ok) : ∃ r, x = .next (s.respond r) :=
  let ⟨r, hr, _⟩ := h
  ⟨r, hr⟩

/-- R49: an instruction outside the three that change state only answers. -/
theorem exec_of_not_changesState (i : Instr) (s : State) (h : changesState i = false) :
    ∃ r, exec i s = .next (s.respond r) := by
  cases i with
  | rxPush | rxReset | cfgSetAddr => cases h
  | swEncode f => exact (execSwEncode_answers f s).next
  | swDecode w => exact (execSwDecode_answers w s).next
  | cmdEncode a kw g => exact (execCmdEncode_answers a kw g s).next
  | frameParse text => exact (parseFrame_answers text s).next
  | respFormat k => exact (execRespFormat_answers k s).next
  | respParse text => exact (execRespParse_answers text s).next
  | errDesc e => exact (execErrDesc_answers e s).next
  | decToU16 text => exact (execDecToU16_answers text s).next
  | cfgGetAddr => exact (execCfgGetAddr_answers s).next
  | reserved op => exact (execReserved_answers s).next
  | _ => exact (commandAlone_answers _ s).next

/-- R130: RX_PUSH strips the LF, ends the frame or collects the byte, and each keeps the invariant. -/
theorem execRxPush_keeps_inv {c : Byte} {s t : State} (hs : s.Inv) (h : execRxPush c s = .next t) : t.Inv := by
  rcases execRxPush_cases c s with ⟨-, -, e⟩ | ⟨-, e⟩ | ⟨hc, e⟩ <;> cases e.symm.trans h
  · exact hs.stripLf.respond _
  · exact (hs.endFrame _).respond _
  · exact (hs.collect hc).respond _

/-- R191: CFG_SET_ADDR faults or writes a legal address. -/
theorem execCfgSetAddr_keeps_inv {a : Bytes} {s t : State} (hs : s.Inv) (h : execCfgSetAddr a s = .next t) : t.Inv := by
  rcases execCfgSetAddr_cases a s with ⟨r, e, -⟩ | ⟨addr, -, ha, e⟩ <;> cases e.symm.trans h
  · exact hs.respond r
  · exact (hs.setAddr ha).respond _

/-- R49: an instruction that only answers keeps the invariant. -/
theorem exec_keeps_inv_of_not_changesState {i : Instr} {s t : State} (hs : s.Inv) (h : exec i s = .next t)
    (hi : changesState i = false) : t.Inv := by
  obtain ⟨r, e⟩ := exec_of_not_changesState i s hi
  cases e.symm.trans h
  exact hs.respond r

/-- R49: every instruction keeps the invariant, by whether it is one of the three that change state. -/
theorem exec_keeps_inv {i : Instr} {s t : State} (hs : s.Inv) (h : exec i s = .next t) : t.Inv := by
  cases i with
  | rxPush c => exact execRxPush_keeps_inv hs h
  | rxReset => cases h; exact hs.clearAssembler.respond _
  | cfgSetAddr a => exact execCfgSetAddr_keeps_inv hs h
  | _ => exact exec_keeps_inv_of_not_changesState hs h rfl

/-- Settles O54, by the step's three cases: no input, the reset input, an instruction. -/
theorem stepKeepsTheStateInvariant : Obligations.StepKeepsTheStateInvariant := by
  intro s t hs h
  rcases step_cases s with ⟨-, e⟩ | ⟨rest, -, e⟩ | ⟨i, rest, -, e⟩
  · cases e.symm.trans h; exact hs
  · cases e.symm.trans h; exact (hs.withInputs rest).applyReset
  · exact exec_keeps_inv (hs.withInputs rest) (e.symm.trans h)

/-- R76: the 30 rows of R75 differ in their bytes. -/
theorem keywordTable_distinct : distinctKeywords keywordTable := by decide

/-- R230: the assembler is empty after reset, so only the parameters and the table are left to check. -/
theorem State.reset_inv : State.reset.Inv where
  addrLegal := by decide
  resetLegal := by decide
  roomForFrame := by decide
  bufFits := Nat.zero_le _
  bufOpen := by simp [State.reset]
  ovfFull := by simp [State.reset]
  prevCrEmpty := by simp [State.reset]
  keywordsDistinct := keywordTable_distinct

/-- Settles O55, by `State.reset_inv`. -/
theorem resetStateMeetsTheInvariant : Obligations.ResetStateMeetsTheInvariant := State.reset_inv

/-! ### The search primitives (R11) -/

/-- R11: `find_first` is the library's search for an index. -/
theorem findFirst_eq_findIdx? (inX : Byte → Bool) (text : Bytes) : findFirst inX text = text.findIdx? inX := by
  induction text with
  | nil => rfl
  | cons b bs ih => rw [findFirst, List.findIdx?_cons, ih]

/-- Settles O19: where an index is found it is the library's least index, and `findFirst_eq_none` is the other clause. -/
theorem findFirstIsTheLeastIndex : Obligations.FindFirstIsTheLeastIndex := by
  intro inX text
  refine ⟨fun i => ?_, findFirst_eq_none inX text⟩
  rw [findFirst_eq_findIdx?, List.findIdx?_eq_some_iff_getElem]
  constructor
  · rintro ⟨hi, hb, least⟩
    refine ⟨text[i], List.getElem?_eq_getElem hi, hb, fun j hj c hc => ?_⟩
    obtain ⟨hlt, rfl⟩ := List.getElem?_eq_some_iff.1 hc
    simpa using least j hj
  · rintro ⟨b, hb, hX, least⟩
    obtain ⟨hi, rfl⟩ := List.getElem?_eq_some_iff.1 hb
    exact ⟨hi, hX, fun j hj => by simp [least j hj _ (List.getElem?_eq_getElem (hj.trans hi))]⟩

/-- R7: whitespace is membership in `WS`. -/
theorem isSpace_eq_true (ws : Bytes) (b : Byte) : isSpace ws b = true ↔ b ∈ ws := List.contains_iff_mem

/-- R7: a byte outside `WS` is no whitespace. -/
theorem isSpace_eq_false (ws : Bytes) (b : Byte) : isSpace ws b = false ↔ b ∉ ws := by
  rw [← isSpace_eq_true, Bool.not_eq_true]

/-- R11: no token holds whitespace. -/
theorem tokens_no_space (ws text : Bytes) : ∀ t ∈ tokens ws text, ∀ b ∈ t, isSpace ws b = false := fun t ht b hb =>
  (tokensFrom_bytes ws text (fun _ => True) (fun _ _ => trivial) [] (by simp) t ht b hb).2

/-- Settles O20, each clause from the tokenizer's law for it, read at the empty token. -/
theorem tokensAreTheMaximalRuns : Obligations.TokensAreTheMaximalRuns := by
  intro ws
  refine ⟨rfl, fun text t ht => ⟨?nonempty, ?noSpace⟩, fun text hne hword => ?oneWord, fun before after b hb => ?separates⟩
  case nonempty => exact tokensFrom_ne_nil ws [] text t ht
  case noSpace => exact fun b hb => (isSpace_eq_false ws b).1 (tokens_no_space ws text t ht b hb)
  case oneWord => exact tokens_word ws text hne fun b hb => (isSpace_eq_false ws b).2 (hword b hb)
  case separates => exact tokensFrom_space ws [] before after b ((isSpace_eq_true ws b).2 hb)

end Sys2Proof.Machine
end

section
/-! PROOFS. Who writes and who reads the state: the elements each state-changing instruction leaves as they are, what the answer of
every other instruction depends on, and the obligations of spec 10 from them. -/

namespace Sys2Proof.Machine

/-! ### What the three state-changing instructions leave unchanged (R28) -/

/-- R28: RX_PUSH writes the assembler's elements alone. -/
theorem execRxPush_frame {c : Byte} {s t : State} (h : execRxPush c s = .next t) :
    t.cfgAddr = s.cfgAddr ∧ t.kwTable = s.kwTable ∧ t.config = s.config ∧ t.inputs = s.inputs := by
  rcases execRxPush_cases c s with ⟨-, -, e⟩ | ⟨-, e⟩ | ⟨-, e⟩ <;> cases e.symm.trans h <;> simp

/-- R28: RX_RESET writes the assembler's elements alone. -/
theorem execRxReset_frame {s t : State} (h : execRxReset s = .next t) :
    t.cfgAddr = s.cfgAddr ∧ t.kwTable = s.kwTable ∧ t.config = s.config ∧ t.inputs = s.inputs := by
  cases h
  simp

/-- R28: CFG_SET_ADDR writes CFG_ADDR alone. -/
theorem execCfgSetAddr_frame {a : Bytes} {s t : State} (h : execCfgSetAddr a s = .next t) :
    (t.rxBuf = s.rxBuf ∧ t.rxOvf = s.rxOvf ∧ t.rxPrevCr = s.rxPrevCr) ∧
      t.kwTable = s.kwTable ∧ t.config = s.config ∧ t.inputs = s.inputs := by
  rcases execCfgSetAddr_cases a s with ⟨r, e, -⟩ | ⟨addr, -, -, e⟩ <;> cases e.symm.trans h <;> simp

/-- Settles O49: the frame of each of the three that change state (R49), and any other instruction only answers. -/
theorem stateIsWrittenOnlyAsTheTableSays : Obligations.StateIsWrittenOnlyAsTheTableSays := by
  intro i s t h
  cases hi : changesState i with
  | false =>
    obtain ⟨r, e⟩ := exec_of_not_changesState i s hi
    cases e.symm.trans h
    simp
  | true =>
    cases i with
    | rxPush c =>
      obtain ⟨haddr, hrest⟩ := execRxPush_frame h
      exact ⟨fun hne => absurd haddr hne, fun _ => .inr ⟨c, rfl⟩, hrest⟩
    | rxReset =>
      obtain ⟨haddr, hrest⟩ := execRxReset_frame h
      exact ⟨fun hne => absurd haddr hne, fun _ => .inl rfl, hrest⟩
    | cfgSetAddr a =>
      obtain ⟨⟨hbuf, hovf, hprev⟩, hrest⟩ := execCfgSetAddr_frame h
      exact ⟨fun _ => ⟨a, rfl⟩, fun hne => by simp [hbuf, hovf, hprev] at hne, hrest⟩
    | _ => cases hi

/-! ### What an answer depends on (R28, the "read by" column) -/

/-- From the two states `s` and `t` the results `x` and `y` are the same response, with each state otherwise as it was. -/
def SameAnswer (s t : State) (x y : Result) : Prop := ∃ r, x = .next (s.respond r) ∧ y = .next (t.respond r)

section
variable {s t : State}

/-- R12: the same returned response. -/
theorem sameAnswer_complete (r : Response) : SameAnswer s t (complete s r) (complete t r) := ⟨r, rfl, rfl⟩

/-- R200: the same raised fault. -/
theorem sameAnswer_raiseFault (f : OpFault) : SameAnswer s t (raiseFault s f) (raiseFault t f) := sameAnswer_complete _

/-- The same test in both states, and the same answer on either side of it. -/
theorem SameAnswer.ite {c : Prop} [Decidable c] {x y x' y' : Result} (hx : SameAnswer s t x x') (hy : SameAnswer s t y y') :
    SameAnswer s t (if c then x else y) (if c then x' else y') := by
  split
  · exact hx
  · exact hy

/-- R170: no state element is read. -/
theorem execErrDesc_sameAnswer (e : BitVec 4) : SameAnswer s t (execErrDesc e s) (execErrDesc e t) := by
  unfold execErrDesc
  cases errorText e.toNat with
  | none => exact sameAnswer_raiseFault _
  | some text => exact sameAnswer_complete _

variable (hc : s.config = t.config)
include hc

/-- R202: the length check reads OPERAND_MAX alone. -/
theorem tooLong_congr (text : Bytes) : tooLong s text = tooLong t text := by rw [tooLong, tooLong, hc]

/-- R202: so does the check of the operand `G`. -/
theorem argTooLong_congr (g : Option Bytes) : argTooLong s g = argTooLong t g := by
  cases g with
  | none => rfl
  | some g => exact tooLong_congr hc g

/-- R120: CMD_ENCODE reads OPERAND_MAX alone. -/
theorem execCmdEncode_sameAnswer (a kw : Bytes) (g : Option Bytes) :
    SameAnswer s t (execCmdEncode a kw g s) (execCmdEncode a kw g t) := by
  unfold execCmdEncode
  simp only [tooLong_congr hc, argTooLong_congr hc]
  exact .ite (sameAnswer_raiseFault _) <| .ite (sameAnswer_raiseFault _) <| .ite (sameAnswer_raiseFault _) <|
    .ite (sameAnswer_raiseFault _) (sameAnswer_complete _)

/-- R160: RESP_FORMAT reads OPERAND_MAX alone. -/
theorem execRespFormat_sameAnswer (k : RespOperand) : SameAnswer s t (execRespFormat k s) (execRespFormat k t) := by
  cases k with
  | ok => exact sameAnswer_complete _
  | valueText text =>
    simp only [execRespFormat, tooLong_congr hc]
    exact .ite (sameAnswer_raiseFault _) <| .ite (sameAnswer_raiseFault _) <| .ite (sameAnswer_raiseFault _) (sameAnswer_complete _)
  | valueU16 w => exact sameAnswer_complete _
  | error e => exact .ite (sameAnswer_raiseFault _) (sameAnswer_complete _)

/-- R165: RESP_PARSE reads OPERAND_MAX alone. -/
theorem execRespParse_sameAnswer (text : Bytes) : SameAnswer s t (execRespParse text s) (execRespParse text t) := by
  unfold execRespParse
  rw [tooLong_congr hc]
  exact .ite (sameAnswer_raiseFault _) (sameAnswer_complete _)

/-- R175: DEC_TO_U16 reads OPERAND_MAX alone. -/
theorem execDecToU16_sameAnswer (text : Bytes) : SameAnswer s t (execDecToU16 text s) (execDecToU16 text t) := by
  unfold execDecToU16
  rw [tooLong_congr hc]
  refine .ite (sameAnswer_raiseFault _) <| .ite (sameAnswer_raiseFault _) ?_
  cases decValueFrom 0 text with
  | none => exact sameAnswer_raiseFault _
  | some v => exact .ite (sameAnswer_raiseFault _) (sameAnswer_complete _)

variable (hk : s.kwTable = t.kwTable) (ha : s.cfgAddr = t.cfgAddr)
include hk ha

/-- R122: FRAME_PARSE reads WS, OPERAND_MAX, KW_TABLE and CFG_ADDR, and nothing of the assembler. -/
theorem parseFrame_sameAnswer (text : Bytes) : SameAnswer s t (parseFrame text s) (parseFrame text t) := by
  have hparse : s.parse text = t.parse text := by rw [State.parse, State.parse, hc, hk, ha]
  unfold parseFrame
  rw [tooLong_congr hc, hparse]
  exact .ite (sameAnswer_raiseFault _) (sameAnswer_complete _)

/-- R126: a keyword row makes its frame for CFG_ADDR, which is the same in both states. -/
theorem commandAlone_sameAnswer (keyword : Bytes) : SameAnswer s t (commandAlone keyword s) (commandAlone keyword t) := by
  unfold commandAlone
  rw [ha]
  exact parseFrame_sameAnswer hc hk ha _

end

/-- R192: CFG_GET_ADDR reads CFG_ADDR alone. -/
theorem execCfgGetAddr_sameAnswer {s t : State} (ha : s.cfgAddr = t.cfgAddr) :
    SameAnswer s t (execCfgGetAddr s) (execCfgGetAddr t) := by
  unfold execCfgGetAddr
  rw [ha]
  exact sameAnswer_complete _

/-- Settles O46, by the instruction's own reading of the state; those that read CFG_ADDR leave only the first alternative of the
premise. -/
theorem otherOperationsHaveNoSideEffect : Obligations.OtherOperationsHaveNoSideEffect := by
  intro i s t hi hc hk haddr
  cases i with
  | rxPush | rxReset | cfgSetAddr => cases hi
  | swEncode | swDecode => exact sameAnswer_complete _
  | cmdEncode a kw g => exact execCmdEncode_sameAnswer hc a kw g
  | frameParse text => exact parseFrame_sameAnswer hc hk (haddr.resolve_right fun ⟨_, hne, _⟩ => hne _ rfl) text
  | respFormat k => exact execRespFormat_sameAnswer hc k
  | respParse text => exact execRespParse_sameAnswer hc text
  | errDesc e => exact execErrDesc_sameAnswer e
  | decToU16 text => exact execDecToU16_sameAnswer hc text
  | cfgGetAddr => exact execCfgGetAddr_sameAnswer (haddr.resolve_right fun ⟨hne, _⟩ => hne rfl)
  | reserved => exact sameAnswer_raiseFault _
  | _ => exact commandAlone_sameAnswer hc hk (haddr.resolve_right fun ⟨_, _, hne⟩ => hne _ rfl) _

end Sys2Proof.Machine
end

section
/-! PROOFS. What a step takes from the host's inputs: the decoder reads back every encoding (R60, R61, R76), and the obligation of
spec 20 from that. -/

namespace Sys2Proof.Machine

/-! ### The decoder reads back every encoding -/

/-- R61, R193: a request whose selector names no operation is the reserved instruction of that selector, whatever its other fields. -/
theorem decodeRequest_reserved {r : Request} (h : reservedSelector r.op = true) : decodeRequest r = .reserved r.op := by
  have hop : 0xC ≤ r.op.toNat := of_decide_eq_true h
  unfold decodeRequest
  split
  case h_13 => rfl
  all_goals omega

/-- R60, R61, R76: an operation's request and a keyword's bytes decode by computation; a reserved selector by being well formed. -/
theorem decode_encode {i : Instr} (h : i.wellFormed = true) : decode (encode i) = .ok i := by
  cases i with
  | reserved op => exact congrArg Except.ok (decodeRequest_reserved h)
  | respFormat k => cases k <;> rfl
  | _ => rfl

/-! ### Steps -/

/-- What the decoder knows is carried out under its own name. -/
theorem instrOf_of_decode {e : Encoded} {i : Instr} (s : State) (h : decode e = .ok i) : instrOf s e = i := by
  rw [instrOf, h]

/-- R40, R42: a step carries out the next input the host issues, whole, with the later inputs left waiting. -/
theorem step_issue {s : State} {e : Encoded} {rest : List HostInput} (hs : s.inputs = .issue e :: rest) :
    step s = exec (instrOf s e) { s with inputs := rest } := by
  rw [step, fetch, hs]

/-- R42: where no input waits, the step is idle. -/
theorem step_idle {s : State} (hs : s.inputs = []) : step s = .next s := by
  rw [step, fetch, hs]

/-- R42: an issued input that decodes runs as the instruction it decodes to. -/
theorem step_of_decode {s : State} {e : Encoded} {i : Instr} {rest : List HostInput} (hd : decode e = .ok i)
    (hs : s.inputs = .issue e :: rest) : step s = exec i { s with inputs := rest } := by
  rw [step_issue hs, instrOf_of_decode s hd]

/-- Settles O5: an encoding and a request both run as what they decode to, and no input is the idle step. -/
theorem stepRunsTheDecodedInstruction : Obligations.StepRunsTheDecodedInstruction :=
  ⟨fun _ _ _ hi hs => step_of_decode (decode_encode hi) hs,
    fun _ _ _ _ hd hs => step_of_decode hd hs,
    fun _ hs => step_idle hs⟩

end Sys2Proof.Machine
end

section
/-! PROOFS. The encodings and codes of spec 30: the decoder on requests and keyword bytes, the lookup in KW_TABLE, every keyword alone,
the shapes of
response each operation may answer (R63 to R70) with their codes and lengths, and the obligations of spec 30 from them. -/

namespace Sys2Proof.Machine

/-! ### The decoder -/

/-- Settles O3, by `decode_encode`. -/
theorem decodeReadsBackEveryEncoding : Obligations.DecodeReadsBackEveryEncoding := fun _ hi => decode_encode hi

/-- Settles O1: each request is an encoding, which the decoder reads back, and each keyword word computes. -/
theorem selectorAndKeywordWordsDecode : Obligations.SelectorAndKeywordWordsDecode :=
  ⟨fun f => decode_encode (i := .swEncode f) rfl,
    fun w => decode_encode (i := .swDecode w) rfl,
    fun a kw g => decode_encode (i := .cmdEncode a kw g) rfl,
    fun t => decode_encode (i := .frameParse t) rfl,
    fun t => decode_encode (i := .respFormat (.valueText t)) rfl,
    fun t => decode_encode (i := .respParse t) rfl,
    fun e => decode_encode (i := .errDesc e) rfl,
    fun t => decode_encode (i := .decToU16 t) rfl,
    fun c => decode_encode (i := .rxPush c) rfl,
    decode_encode (i := .rxReset) rfl,
    fun a => decode_encode (i := .cfgSetAddr a) rfl,
    decode_encode (i := .cfgGetAddr) rfl,
    decode_encode (i := .reserved 0xC) rfl,
    decode_encode (i := .reserved 0xF) rfl,
    rfl, rfl, rfl⟩

/-- R66: RESP_FORMAT reads `K` and the one field that `K` picks. -/
theorem decodeRespOperand_congr {r q : Request} (hk : r.k = q.k) (hs : r.k = 1 → r.s = q.s) (hw : r.k = 2 → r.w = q.w)
    (he : r.k = 3 → r.e = q.e) : decodeRespOperand r = decodeRespOperand q := by
  have hK {v : BitVec 2} (h : r.k.toNat = v.toNat) : r.k = v := BitVec.eq_of_toNat_eq h
  unfold decodeRespOperand
  rw [← hk]
  split
  · rfl
  · next h => rw [hs (hK h)]
  · next h => rw [hw (hK h)]
  · next h0 h1 h2 =>
    have hlt : r.k.toNat < 4 := r.k.isLt
    have h3 : r.k.toNat = 3 := by simp only [imp_false] at h0 h1 h2; omega
    rw [he (hK h3)]

/-- Settles O2, by the selector: each operation's field is named by its premise, and a reserved selector reads none. -/
theorem unnamedRequestFieldsAreIgnored : Obligations.UnnamedRequestFieldsAreIgnored := by
  intro r q hop hf hw hcmd hs hresp he hbyte ha
  have hOp {v : BitVec 4} (h : r.op.toNat = v.toNat) : r.op = v := BitVec.eq_of_toNat_eq h
  refine congrArg Except.ok ?_
  unfold decodeRequest
  rw [← hop]
  split
  case h_1 h => rw [hf (hOp h)]
  case h_2 h => rw [hw (hOp h)]
  case h_3 h => obtain ⟨ha, hkw, hg⟩ := hcmd (hOp h); rw [ha, hkw, hg]
  case h_4 h => rw [hs (.inl (hOp h))]
  case h_5 h => obtain ⟨hk, hs, hw, he⟩ := hresp (hOp h); rw [decodeRespOperand_congr hk hs hw he]
  case h_6 h => rw [hs (.inr (.inl (hOp h)))]
  case h_7 h => rw [he (hOp h)]
  case h_8 h => rw [hs (.inr (.inr (hOp h)))]
  case h_9 h => rw [hbyte (hOp h)]
  case h_10 => rfl
  case h_11 h => rw [ha (hOp h)]
  case h_12 => rfl
  case h_13 => rfl

/-- R76: a lookup that succeeds has found a row with the token's bytes. -/
theorem exists_row_of_findKeyword {token : Bytes} {rows : List KeywordWord} {i : Instr} (h : findKeyword token rows = some i) :
    ∃ row ∈ rows, row.token = token ∧ row.instr = i := by
  induction rows with
  | nil => cases h
  | cons row rows ih =>
    rw [findKeyword] at h
    split at h
    · next htoken => exact ⟨row, by simp, htoken, by simpa using h⟩
    · obtain ⟨later, hmem, hlater⟩ := ih h
      exact ⟨later, by simp [hmem], hlater⟩

/-- R75: the encoder writes the bytes by which the decoder finds each keyword row. -/
theorem encode_keywordRow : ∀ row ∈ twoByteKeywords ++ sixByteKeywords, encode row.instr = .keyword row.token := by decide

/-- R76: what a keyword decodes to is encoded as that keyword. -/
theorem encode_of_decodeKeyword {t : Bytes} {i : Instr} (h : decodeKeyword t = .ok i) : encode i = .keyword t := by
  unfold decodeKeyword at h
  split at h <;> cases h
  next hfind =>
    obtain ⟨row, hmem, rfl, rfl⟩ := exists_row_of_findKeyword hfind
    exact encode_keywordRow row hmem

/-- R61: only a request can be ill formed. -/
theorem wellFormed_of_encode_keyword {i : Instr} {t : Bytes} (h : encode i = .keyword t) : i.wellFormed = true := by
  cases i with
  | reserved => cases h
  | _ => rfl

/-- Settles O4: the encoder inverts the keyword lookup, and the decoder the encoder. -/
theorem keywordBytesHaveOneMeaning : Obligations.KeywordBytesHaveOneMeaning := fun _ _ =>
  ⟨encode_of_decodeKeyword, fun h => h ▸ decode_encode (wellFormed_of_encode_keyword h)⟩

/-! ### The lookup in KW_TABLE (R75, R76) -/

/-- R76: UNKNOWN is the class of the tokens that are no row. -/
theorem keywordClass_eq_none (rows : List KwRow) (t : Bytes) : keywordClass rows t = none ↔ ∀ row ∈ rows, row.keyword ≠ t := by
  induction rows with
  | nil => simp [keywordClass]
  | cons row rows ih => by_cases h : row.keyword = t <;> simp [keywordClass, h, ih]

/-- R76: where no two rows share their bytes, the first row with the bytes of `t` is the only one. -/
theorem keywordClass_eq_some {rows : List KwRow} (hrows : distinctKeywords rows) (t : Bytes) (c : KwClass) :
    keywordClass rows t = some c ↔ (⟨t, c⟩ : KwRow) ∈ rows := by
  induction rows with
  | nil => simp [keywordClass]
  | cons row rows ih =>
    obtain ⟨hnew, hrest⟩ := List.nodup_cons.1 hrows
    obtain ⟨kw, cls⟩ := row
    by_cases h : kw = t
    · subst h
      have hnot : (⟨kw, c⟩ : KwRow) ∉ rows := fun hmem => hnew (List.mem_map.2 ⟨_, hmem, rfl⟩)
      simp [keywordClass, hnot, eq_comm]
    · simp [keywordClass, h, ih hrest, Ne.symm h]

/-- Settles O9, by `keywordClass_eq_some` and `keywordClass_eq_none`. -/
theorem keywordLookupIsExact : Obligations.KeywordLookupIsExact :=
  ⟨keywordTable_distinct, fun rows t hrows => ⟨keywordClass_eq_some hrows t, keywordClass_eq_none rows t⟩⟩

/-- Settles O8: the characters of the table are the bytes of R75, and `keywordClass_eq_none` is the other clause. -/
theorem keywordTableHoldsTheThirtyRows : Obligations.KeywordTableHoldsTheThirtyRows :=
  ⟨rfl, fun t => (keywordClass_eq_none keywordTable t).2⟩

/-! ### A keyword alone (R126) -/

/-- Settles O26, by `exec_keyword`. -/
theorem keywordCommandIsItsOneTokenFrame : Obligations.KeywordCommandIsItsOneTokenFrame := fun i t s h => exec_keyword i t s h

/-- R126: what `parse` answers for a keyword of class `c` alone. -/
def oneTokenResult (addr : Addr) (t : Bytes) : KwClass → FrameResult
  | .only => .frame .actionOnly addr t none
  | .arg => .perr .missingParameter
  | .qonly => .perr .queryOnlyAsAction

/-- R126: one known token is judged by its class. -/
theorem parseOneToken_of_class {rows : List KwRow} {t : Bytes} {c : KwClass} (addr : Addr) (h : keywordClass rows t = some c) :
    parseOneToken rows addr t = oneTokenResult addr t c := by
  rw [parseOneToken, h]
  cases c <;> rfl

/-- R123 to R126: the one-token frame of a clean token parses as that token alone. -/
theorem parse_oneTokenFrame {ws : Bytes} {addr : Addr} {t : Bytes} (rows : List KwRow) (ha : legalAddr addr = true)
    (ht : cleanToken ws t) : parse ws rows addr (oneTokenFrame addr t) = parseOneToken rows addr t := by
  obtain ⟨hne, hbytes⟩ := ht
  calc parse ws rows addr (oneTokenFrame addr t)
    _ = parseRemainder ws rows addr (t ++ [cr]) := by
      rw [← parse_header ws rows addr ha (t ++ [cr]), oneTokenFrame, List.append_assoc]
    _ = parsePayload ws rows addr t := parseRemainder_terminated ws rows addr t [] cr (fun b hb => (hbytes b hb).2.1) rfl
    _ = parseAction rows addr (tokens ws t) := parsePayload_action ws rows addr t fun b hb => (hbytes b hb).2.2
    _ = parseOneToken rows addr t := by rw [tokens_word ws t hne fun b hb => (hbytes b hb).1]; rfl

/-- R75: every keyword is one token for the whitespace of R7, of at most 6 bytes. -/
theorem keywordTable_clean : ∀ row ∈ keywordTable, cleanToken [0x09, 0x0B, 0x0C, 0x20] row.keyword ∧ row.keyword.length ≤ 6 := by
  decide

/-- R120: a one-token frame is 5 bytes longer than its token. -/
theorem oneTokenFrame_length (addr : Addr) (t : Bytes) : (oneTokenFrame addr t).length = t.length + 5 := by
  simp [oneTokenFrame, Addr.bytes]

section
variable {s : State} (ha : legalAddr s.cfgAddr = true) (hk : s.kwTable = keywordTable)
  (hws : s.config.ws = [0x09, 0x0B, 0x0C, 0x20]) (hmax : 11 ≤ s.config.operandMax)
include ha hk hws hmax

/-- R126: the instruction of a row of KW_TABLE answers by the row's class. -/
theorem exec_keywordRow {i : Instr} {t : Bytes} {c : KwClass} (hrow : (⟨t, c⟩ : KwRow) ∈ keywordTable)
    (hi : encode i = .keyword t) : exec i s = .next (s.respond (frameResponse (oneTokenResult s.cfgAddr t c))) := by
  obtain ⟨hclean, (hlen : t.length ≤ 6)⟩ := keywordTable_clean _ hrow
  have hclass : keywordClass s.kwTable t = some c := by rw [hk, keywordClass_eq_some keywordTable_distinct]; exact hrow
  have hparse : s.parse (oneTokenFrame s.cfgAddr t) = oneTokenResult s.cfgAddr t c := by
    rw [State.parse, parse_oneTokenFrame _ ha (hws ▸ hclean), parseOneToken_of_class _ hclass]
  rw [exec_keyword i t s hi, commandAlone]
  rcases parseFrame_cases (oneTokenFrame s.cfgAddr t) s with ⟨hlong, -⟩ | ⟨-, e⟩
  · rw [oneTokenFrame_length] at hlong
    omega
  · rw [e, hparse]

end

/-- Settles O27: each of the 14 is the instruction of an ARG row, so `exec_keywordRow` answers. -/
theorem argKeywordAloneMissesItsParameter : Obligations.ArgKeywordAloneMissesItsParameter := by
  intro s ha hk hws hmax i hi
  have hrows : ∀ i ∈ [Instr.kwBC, .kwDC, .kwDT, .kwDW, .kwEC, .kwEM, .kwEN, .kwFL, .kwPE, .kwPM, .kwRC, .kwSV, .kwRR, .kwUC],
      ∃ row ∈ keywordTable, row.cls = .arg ∧ encode i = .keyword row.keyword := by decide
  obtain ⟨⟨t, _⟩, hrow, rfl, henc⟩ := hrows i hi
  exact exec_keywordRow ha hk hws hmax hrow henc

/-- Settles O28: the ONLY row is `RS`. -/
theorem rsAloneIsAcceptedAndResetsNothing : Obligations.RsAloneIsAcceptedAndResetsNothing := fun _ ha hk hws hmax =>
  exec_keywordRow ha hk hws hmax (t := [0x52, 0x53]) (c := .only) (by decide) rfl

/-- Settles O29: each of the 15 is the instruction of a QONLY row. -/
theorem queryOnlyKeywordAloneNeedsTheMark : Obligations.QueryOnlyKeywordAloneNeedsTheMark := by
  intro s ha hk hws hmax i hi
  have hrows : ∀ i ∈ [Instr.kwBV, .kwFT, .kwFV, .kwID, .kwIM, .kwLS, .kwPEMin, .kwPEMax, .kwRRMin, .kwRRMax, .kwSC, .kwSS,
      .kwTRMin, .kwTRMax, .kwDCMin], ∃ row ∈ keywordTable, row.cls = .qonly ∧ encode i = .keyword row.keyword := by decide
  obtain ⟨⟨t, _⟩, hrow, rfl, henc⟩ := hrows i hi
  exact exec_keywordRow ha hk hws hmax hrow henc

/-! ### The reasons of a parse error (R69) -/

/-- R69: the protocol error number is a function of the reason, and no reason has number 4, 7 or 8 (R77). -/
theorem ParseReason.pcode_mem (reason : ParseReason) : reason.pcode ∈ [1, 2, 3, 5, 6] := by cases reason <;> decide

/-- Settles O18: the table of R69 row by row, and `ParseReason.pcode_mem`. -/
theorem parseReasonCodesAndProtocolErrors : Obligations.ParseReasonCodesAndProtocolErrors := by
  have absent : ∀ n ∈ ([1, 2, 3, 5, 6] : List (BitVec 4)), n ≠ 4 ∧ n ≠ 7 ∧ n ≠ 8 := by decide
  exact ⟨⟨rfl, rfl⟩, ⟨rfl, rfl⟩, ⟨rfl, rfl⟩, ⟨rfl, rfl⟩, ⟨rfl, rfl⟩, ⟨rfl, rfl⟩, ⟨rfl, rfl⟩,
    fun reason => absent _ reason.pcode_mem⟩

/-! ### The lengths of the results (R65) -/

/-- The keyword and the argument of an accepted frame have at most `n` bytes. -/
def FrameResult.fits (n : Nat) : FrameResult → Prop
  | .frame _ _ kw arg => kw.length ≤ n ∧ ∀ x, arg = some x → x.length ≤ n
  | .perr _ => True

/-- R65: no token is longer than its text. -/
theorem length_le_of_mem_tokens {ws text t : Bytes} (h : t ∈ tokens ws text) : t.length ≤ text.length := by
  simpa using tokensFrom_length ws [] text t h

/-- R65: the keyword and the argument are tokens of the text. -/
theorem State.parse_fits {s : State} {text : Bytes} {n : Nat} (hn : text.length ≤ n) : (s.parse text).fits n := by
  cases h : s.parse text with
  | perr => trivial
  | frame kind addr kw arg =>
    obtain ⟨payload, -, hpayload, hp⟩ := parse_frame _ _ _ _ _ _ _ _ h
    obtain ⟨-, part, -, hpart, hkw, harg⟩ := parsePayload_frame _ _ _ _ _ _ _ _ hp
    have token_fits {t : Bytes} (ht : t ∈ tokens s.config.ws part) : t.length ≤ n :=
      (length_le_of_mem_tokens ht).trans (hpart.trans (hpayload.trans hn))
    refine ⟨token_fits hkw, fun x hx => ?_⟩
    rcases harg with ⟨-, hnone⟩ | ⟨-, g, hg, hmem⟩
    · cases hnone.symm.trans hx
    · cases hg.symm.trans hx; exact token_fits hmem

/-- R8, R65: OPERAND_MAX leaves room for a full assembler and its terminator. -/
theorem State.Inv.frameEnded_fits {s : State} (h : s.Inv) (c : Byte) : (s.frameEnded c).fits s.config.operandMax := by
  have hroom := h.roomForFrame
  have hbuf := h.bufFits
  unfold State.frameEnded
  split
  · trivial
  · exact State.parse_fits (by simp; omega)

/-- R161: the loop writes at most `fuel` digits. -/
theorem decDigits_length (fuel n : Nat) : (decDigits fuel n).length ≤ fuel := by
  induction fuel generalizing n with
  | zero => exact Nat.le_refl 0
  | succ fuel ih =>
    rw [decDigits]
    split
    · simp
    · simpa using ih (n / 10)

/-! ### The response of each operation (R63) -/

/-- R63: the operations that write `OUT`. -/
abbrev writesOut (i : Instr) : Prop :=
  (∃ a kw g, i = .cmdEncode a kw g) ∨ (∃ k, i = .respFormat k) ∨ (∃ e, i = .errDesc e) ∨ i = .cfgGetAddr

/-- R63: the operations that write the fields of a frame or a parse error, a keyword row as the FRAME_PARSE it is. -/
abbrev writesFrame (i : Instr) : Prop := (∃ x, i = .frameParse x) ∨ (∃ c, i = .rxPush c) ∨ ∃ x, encode i = .keyword x

/-- R63: the responses an operation may answer in the state `s`: which fields it names together, by which operations (the "written by"
column), and what bounds the strings. -/
inductive Replies (s : State) (i : Instr) : Response → Prop where
  /-- R200. -/
  | fault (f : OpFault) : Replies s i (faultResponse f)
  /-- No result field. -/
  | done : Replies s i { st := .done }
  /-- `W`. -/
  | word (w : Word16) (origin : (∃ f, i = .swEncode f) ∨ ∃ x, i = .decToU16 x) : Replies s i { st := .done, w := some w }
  /-- `F`. -/
  | flags (f : Flags) (origin : ∃ w, i = .swDecode w) : Replies s i { st := .done, f := some f }
  /-- `OUT`: a string whose length was checked, or one of at most 28 bytes. -/
  | out (text : Bytes) (fits : text.length ≤ max s.config.operandMax 28) (origin : writesOut i) :
      Replies s i { st := .done, out := some text }
  /-- `RXR` = NONE. -/
  | noFrame (c : Byte) (origin : i = .rxPush c) : Replies s i noFrameResponse
  /-- A frame or a parse error. -/
  | frame (res : FrameResult) (fits : s.Inv → res.fits s.config.operandMax) (origin : writesFrame i) :
      Replies s i (frameResponse res)
  /-- A response line. -/
  | line (text : Bytes) (fits : text.length ≤ s.config.operandMax) (origin : i = .respParse text) :
      Replies s i (parseResponse text)

/-- R122: what FRAME_PARSE answers, under whichever name it runs. -/
theorem replies_of_parseFrame {s : State} {i : Instr} {text : Bytes} (origin : writesFrame i) :
    Answers (parseFrame text s) s (Replies s i) := by
  obtain ⟨r, e, rfl | ⟨hlen, rfl⟩⟩ := parseFrame_answers text s
  · exact ⟨_, e, .fault _⟩
  · exact ⟨_, e, .frame _ (fun _ => State.parse_fits hlen) origin⟩

/-- R160: every line of RESP_FORMAT but a checked value text is at most 7 bytes long. -/
theorem replies_of_execRespFormat (k : RespOperand) (s : State) : Answers (execRespFormat k s) s (Replies s (.respFormat k)) := by
  have origin : writesOut (.respFormat k) := .inr (.inl ⟨k, rfl⟩)
  have short {text : Bytes} (h : text.length ≤ 28) : text.length ≤ max s.config.operandMax 28 := le_max_of_le_right h
  obtain ⟨r, e, hr⟩ := execRespFormat_answers k s
  refine ⟨r, e, ?_⟩
  cases k with
  | ok => subst hr; exact .out _ (short (by decide)) origin
  | valueText text =>
    obtain rfl | rfl | ⟨-, hlen, rfl⟩ := hr
    · exact .fault _
    · exact .fault _
    · exact .out _ (le_max_of_le_left hlen) origin
  | valueU16 w =>
    subst hr
    have hdec : (dec16 w).length ≤ 5 := decDigits_length 5 w.toNat
    exact .out _ (short (by simp [crLf]; omega)) origin
  | error e =>
    obtain rfl | ⟨-, rfl⟩ := hr
    · exact .fault _
    · exact .out _ (short (by simp [crLf])) origin

/-- R63: every instruction answers one of its responses. -/
theorem exec_replies {i : Instr} {s t : State} (h : exec i s = .next t) : ∃ r, t.response = some r ∧ Replies s i r := by
  have of_answers (hx : Answers (exec i s) s (Replies s i)) : ∃ r, t.response = some r ∧ Replies s i r := by
    obtain ⟨r, e, hr⟩ := hx
    cases e.symm.trans h
    exact ⟨r, rfl, hr⟩
  cases i with
  | swEncode f => exact of_answers (answers_complete _ _ _ (.word _ (.inl ⟨f, rfl⟩)))
  | swDecode w => exact of_answers (answers_complete _ _ _ (.flags _ ⟨w, rfl⟩))
  | cmdEncode a kw g =>
    obtain ⟨r, e, rfl | ⟨-, rfl⟩ | ⟨hlen, rfl⟩⟩ := execCmdEncode_answers a kw g s
    · exact of_answers ⟨_, e, .fault _⟩
    · exact of_answers ⟨_, e, .fault _⟩
    · exact of_answers ⟨_, e, .out _ (le_max_of_le_left hlen) (.inl ⟨a, kw, g, rfl⟩)⟩
  | frameParse text => exact of_answers (replies_of_parseFrame (.inl ⟨text, rfl⟩))
  | respFormat k => exact of_answers (replies_of_execRespFormat k s)
  | respParse text =>
    obtain ⟨r, e, rfl | ⟨hlen, rfl⟩⟩ := execRespParse_answers text s
    · exact of_answers ⟨_, e, .fault _⟩
    · exact of_answers ⟨_, e, .line text hlen rfl⟩
  | errDesc d =>
    obtain ⟨r, e, rfl | ⟨text, htext, rfl⟩⟩ := execErrDesc_answers d s
    · exact of_answers ⟨_, e, .fault _⟩
    · exact of_answers ⟨_, e, .out text (le_max_of_le_right (errorText_length _ _ htext)) (.inr (.inr (.inl ⟨d, rfl⟩)))⟩
  | decToU16 text =>
    obtain ⟨r, e, rfl | rfl | ⟨w, rfl⟩⟩ := execDecToU16_answers text s
    · exact of_answers ⟨_, e, .fault _⟩
    · exact of_answers ⟨_, e, .fault _⟩
    · exact of_answers ⟨_, e, .word w (.inr ⟨text, rfl⟩)⟩
  | rxPush c =>
    rcases execRxPush_cases c s with ⟨-, -, e⟩ | ⟨-, e⟩ | ⟨-, e⟩ <;> cases e.symm.trans h
    · exact ⟨_, rfl, .noFrame c rfl⟩
    · exact ⟨_, rfl, .frame _ (fun hs => hs.frameEnded_fits c) (.inr (.inl ⟨c, rfl⟩))⟩
    · exact ⟨_, rfl, .noFrame c rfl⟩
  | rxReset => cases h; exact ⟨_, rfl, .done⟩
  | cfgSetAddr a =>
    rcases execCfgSetAddr_cases a s with ⟨_, e, f, -, rfl⟩ | ⟨addr, -, -, e⟩ <;> cases e.symm.trans h
    · exact ⟨_, rfl, .fault f⟩
    · exact ⟨_, rfl, .done⟩
  | cfgGetAddr =>
    exact of_answers (answers_complete _ _ _ (.out _ (le_max_of_le_right (by simp [Addr.bytes])) (.inr (.inr (.inr rfl)))))
  | reserved => exact of_answers (answers_raise _ _ _ (.fault _))
  | _ => exact of_answers (replies_of_parseFrame (.inr (.inr ⟨_, rfl⟩)))

/-- R165: a response line sets only the fields of a line, with an error code in 1..8 and a value no longer than the line. -/
theorem parseResponse_fields (text : Bytes) :
    ∃ kind code value, parseResponse text = { st := .done, rpKind := some kind, rpCode := code, rpValue := value } ∧
      (∀ n, code = some n → 1 ≤ n.toNat ∧ n.toNat ≤ 8) ∧ ∀ x, value = some x → x.length ≤ text.length := by
  rcases parseResponse_cases text with h | h | ⟨d, hlo, hhi, h⟩ | ⟨body, hlen, h⟩
  · exact ⟨_, none, none, h, by simp, by simp⟩
  · exact ⟨_, none, none, h, by simp, by simp⟩
  · exact ⟨_, _, none, h, by rintro _ ⟨⟩; simp; omega, by simp⟩
  · exact ⟨_, none, _, h, by simp, by rintro _ ⟨⟩; exact hlen⟩

/-- Settles O50, by the shapes of `Replies`: each names the fields of one row of R63 and carries the operations of that row. -/
theorem responseFieldsComeFromTheirOperations : Obligations.ResponseFieldsComeFromTheirOperations := by
  intro i s t h
  obtain ⟨r, hr, hreplies⟩ := exec_replies h
  refine ⟨r, hr, ?_⟩
  cases hreplies with
  | fault | done => simp [faultResponse]
  | word w origin => simp [origin]
  | flags f origin => simp [origin]
  | out text fits origin => simpa using origin
  | noFrame c origin => simp [origin, noFrameResponse]
  | frame res fits origin => cases res <;> simpa [frameResponse] using origin
  | line text fits origin =>
    obtain ⟨kind, code, value, e, -, -⟩ := parseResponse_fields text
    simp [e, origin]

/-! ### The codes on the port (R64, R67 to R70) -/

/-- R64: `ST` 8 to 15 are reserved. -/
theorem Status.code_lt (st : Status) : st.code.toNat < 8 := by
  cases st with
  | done => decide
  | fault f => cases f <;> decide

/-- R67: `RXR` 3 is reserved. -/
theorem FrameTag.code_ne (tag : FrameTag) : tag.code ≠ 3 := by cases tag <;> decide

/-- R68: `FR_KIND` 3 is reserved. -/
theorem FrameKind.code_ne (kind : FrameKind) : kind.code ≠ 3 := by cases kind <;> decide

/-- R69: `PE_REASON` 0 is no reason. -/
theorem ParseReason.code_ne (reason : ParseReason) : reason.code ≠ 0 := by cases reason <;> decide

/-- R69, R77: a named `PCODE` is that of a reason. -/
theorem Replies.pcode_mem {s : State} {i : Instr} {r : Response} {n : BitVec 4} (h : Replies s i r) (hn : r.pcode = some n) :
    n ∈ [1, 2, 3, 5, 6] := by
  cases h with
  | fault | done | word | flags | out | noFrame => cases hn
  | frame res =>
    cases res with
    | frame => cases hn
    | perr reason => cases hn; exact reason.pcode_mem
  | line text =>
    obtain ⟨kind, code, value, e, -, -⟩ := parseResponse_fields text
    cases e ▸ hn

/-- R70: a named `RP_CODE` is an error code of the closed set. -/
theorem Replies.rpCode_range {s : State} {i : Instr} {r : Response} {n : BitVec 4} (h : Replies s i r) (hn : r.rpCode = some n) :
    1 ≤ n.toNat ∧ n.toNat ≤ 8 := by
  cases h with
  | fault | done | word | flags | out | noFrame => cases hn
  | frame res => cases res <;> cases hn
  | line text =>
    obtain ⟨kind, code, value, e, hcode, -⟩ := parseResponse_fields text
    exact hcode n (by rw [e] at hn; exact hn)

/-- Settles O51: a field of an enumerated type has only that type's codes, and `Replies` bounds the two numeric ones. -/
theorem reservedCodesAreNeverProduced : Obligations.ReservedCodesAreNeverProduced := by
  intro i s t idle h
  obtain ⟨r, hr, hreplies⟩ := exec_replies h
  refine ⟨r, r.onPort idle, hr, by rw [State.portOut, hr]; rfl, r.st.code_lt, ?_, ?_, ?_, ?_, ?_⟩ <;> intro hsome <;>
    obtain ⟨v, hv⟩ := Option.isSome_iff_exists.1 hsome
  · simpa [Response.onPort, hv] using v.code_ne
  · simpa [Response.onPort, hv] using v.code_ne
  · simpa [Response.onPort, hv] using v.code_ne
  · simpa [Response.onPort, hv] using hreplies.pcode_mem hv
  · simpa [Response.onPort, hv] using hreplies.rpCode_range hv

/-- Settles O52, by the bound each shape of `Replies` carries. -/
theorem resultsFitOperandMax : Obligations.ResultsFitOperandMax := by
  intro i s t r hs hmax h hr
  obtain ⟨_, hr', hreplies⟩ := exec_replies h
  cases hr'.symm.trans hr
  cases hreplies with
  | fault | done | word | flags | noFrame => simp [faultResponse, noFrameResponse]
  | out text fits => simpa [max_eq_left hmax] using fits
  | frame res fits =>
    cases res with
    | perr => simp [frameResponse]
    | frame kind addr kw arg =>
      obtain ⟨hkw, harg⟩ := fits hs
      simpa [frameResponse] using ⟨hkw, harg⟩
  | line text fits =>
    obtain ⟨kind, code, value, e, -, hvalue⟩ := parseResponse_fields text
    simpa [e] using fun x hx => (hvalue x hx).trans fits

end Sys2Proof.Machine
end

section
/-! PROOFS. The status word codec of spec 40: what each named flag's bit and each reserved bit of a packed word is, both round trips, the
word as a sum, the word's travel as a decimal response line, and the obligations from them. -/

namespace Sys2Proof.Machine

/-! ### The layout (R100) -/

/-- R100: no two named flags share a bit. -/
theorem flagOrder_bits_nodup : (flagOrder.map flagBit).Nodup := by decide

/-- R104: the loop visits every named flag. -/
theorem mem_flagOrder (n : Flag) : n ∈ flagOrder := by cases n <;> decide

/-- R100: a bit index names at most one flag. -/
theorem flagBit_inj {m n : Flag} : flagBit m = flagBit n ↔ m = n :=
  ⟨fun h => List.inj_on_of_nodup_map flagOrder_bits_nodup (mem_flagOrder m) (mem_flagOrder n) h, congrArg flagBit⟩

/-- R100: the mask 0x3FCB holds exactly the bits of the named flags. -/
theorem getLsbD_namedMask : ∀ j < 16, (0x3FCB : Word16).getLsbD j = flagOrder.any fun n => decide (flagBit n = j) := by decide

/-- R100: every named flag's bit is in the mask. -/
theorem getLsbD_namedMask_flagBit (n : Flag) : (0x3FCB : Word16).getLsbD (flagBit n) = true := by
  rw [getLsbD_namedMask _ (flagBit_lt n), List.any_eq_true]
  exact ⟨n, mem_flagOrder n, decide_eq_true rfl⟩

/-- Flag vectors that agree on every named flag are one. -/
theorem eq_of_getFlag_eq {f g : Flags} (h : ∀ n, getFlag f n = getFlag g n) : f = g := by
  cases f
  cases g
  simp only [Flags.mk.injEq]
  exact ⟨h .laserEnabled, h .laserActive, h .diodeExtTrigger, h .extInterlock, h .resonatorOverTemp, h .electricalOverTemp,
    h .powerFailure, h .readyToEnable, h .readyToFire, h .lowPowerMode, h .highPowerMode⟩

/-! ### Packing and unpacking, bit by bit (R101, R102) -/

/-- R102: a flag of the unpacked word is its bit. -/
theorem getFlag_unpackFlags (w : Word16) (n : Flag) : getFlag (unpackFlags w) n = w.getLsbD (flagBit n) := by cases n <;> rfl

/-- R101: a bit of the packed word is 1 exactly when a flag that is 1 has it. -/
theorem packFlags_getLsbD (f : Flags) (j : Nat) :
    (packFlags f).getLsbD j = flagOrder.any fun n => getFlag f n && decide (flagBit n = j) := by
  simp [packFlags, packOver_getLsbD]

/-- R101: a named flag's bit of the packed word is the flag. -/
theorem packFlags_getLsbD_flagBit (f : Flags) (n : Flag) : (packFlags f).getLsbD (flagBit n) = getFlag f n := by
  rw [packFlags_getLsbD, Bool.eq_iff_iff, List.any_eq_true]
  simp [flagBit_inj, mem_flagOrder]

/-- R101: a bit that no flag has is 0 in the packed word. -/
theorem packFlags_getLsbD_reserved (f : Flags) {j : Nat} (hj : j ∉ flagOrder.map flagBit) : (packFlags f).getLsbD j = false := by
  rw [packFlags_getLsbD, List.any_eq_false]
  intro n hn
  have hne : flagBit n ≠ j := fun h => hj (List.mem_map.2 ⟨n, hn, h⟩)
  simp [hne]

/-- R101: SW_ENCODE reads no state and does not fault. -/
theorem exec_swEncode (f : Flags) (s : State) :
    exec (.swEncode f) s = .next (s.respond { st := .done, w := some (packFlags f) }) := rfl

/-- R102: SW_DECODE reads no state and does not fault. -/
theorem exec_swDecode (w : Word16) (s : State) :
    exec (.swDecode w) s = .next (s.respond { st := .done, f := some (unpackFlags w) }) := rfl

/-- Settles O11: each named bit is the one `flagBit` gives. -/
theorem swDecodeReadsTheNamedBits : Obligations.SwDecodeReadsTheNamedBits := exec_swDecode

/-- Settles O10: the word is `packFlags f`, whose named bits and reserved bits are known. -/
theorem swEncodePacksTheNamedFlags : Obligations.SwEncodePacksTheNamedFlags := fun f s =>
  have named := packFlags_getLsbD_flagBit f
  have reserved {j : Nat} (hj : j ∉ flagOrder.map flagBit) := packFlags_getLsbD_reserved f hj
  ⟨packFlags f, exec_swEncode f s, named .laserEnabled, named .laserActive, reserved (by decide), named .diodeExtTrigger,
    reserved (by decide), reserved (by decide), named .extInterlock, named .resonatorOverTemp, named .electricalOverTemp,
    named .powerFailure, named .readyToEnable, named .readyToFire, named .lowPowerMode, named .highPowerMode,
    reserved (by decide), reserved (by decide)⟩

/-! ### Reserved bits and round trips (R102, R103) -/

/-- R102: a change of reserved bits alone does not reach the flags. -/
theorem unpackFlags_xor_reserved (w : Word16) {r : Word16} (hr : r &&& 0x3FCB = 0) : unpackFlags (w ^^^ r) = unpackFlags w := by
  refine eq_of_getFlag_eq fun n => ?_
  have hbit : r.getLsbD (flagBit n) = false := by
    have h : (r &&& 0x3FCB).getLsbD (flagBit n) = false := hr ▸ BitVec.getLsbD_zero
    rwa [BitVec.getLsbD_and, getLsbD_namedMask_flagBit, Bool.and_true] at h
  rw [getFlag_unpackFlags, getFlag_unpackFlags, BitVec.getLsbD_xor, hbit, Bool.xor_false]

/-- Settles O12, by `unpackFlags_xor_reserved`. -/
theorem swDecodeIgnoresReservedBits : Obligations.SwDecodeIgnoresReservedBits := fun w r s hr => by
  rw [exec_swDecode, exec_swDecode, unpackFlags_xor_reserved w hr]

/-- R103: unpacking what was packed gives the flags back. -/
theorem unpackFlags_packFlags (f : Flags) : unpackFlags (packFlags f) = f :=
  eq_of_getFlag_eq fun n => (getFlag_unpackFlags _ n).trans (packFlags_getLsbD_flagBit f n)

/-- R103: packing what was unpacked clears the reserved bits. -/
theorem packFlags_unpackFlags (x : Word16) : packFlags (unpackFlags x) = x &&& 0x3FCB := by
  refine BitVec.eq_of_getLsbD_eq fun j hj => ?_
  rw [packFlags_getLsbD, BitVec.getLsbD_and, getLsbD_namedMask j hj, Bool.eq_iff_iff, Bool.and_eq_true, List.any_eq_true,
    List.any_eq_true]
  constructor
  · rintro ⟨n, hn, h⟩
    obtain ⟨hx, rfl⟩ : x.getLsbD (flagBit n) = true ∧ flagBit n = j := by simpa [getFlag_unpackFlags] using h
    exact ⟨hx, n, hn, decide_eq_true rfl⟩
  · rintro ⟨hx, n, hn, h⟩
    obtain rfl : flagBit n = j := of_decide_eq_true h
    exact ⟨n, hn, by simpa [getFlag_unpackFlags] using hx⟩

/-- R100, R103: a word whose reserved bits are 0 keeps all of itself under the mask of the named bits. -/
theorem and_namedMask_of_reserved_clear {x : Word16} (hx : x &&& 0xC034 = 0) : x &&& 0x3FCB = x := by
  calc x &&& 0x3FCB = (x &&& 0x3FCB) ||| (x &&& 0xC034) := by rw [hx]; exact BitVec.or_zero.symm
    _ = x &&& (0x3FCB ||| 0xC034) := BitVec.and_or_distrib_left.symm
    _ = x := BitVec.and_allOnes

/-- Settles O13, by the two compositions of `packFlags` and `unpackFlags`. -/
theorem statusWordRoundTrips : Obligations.StatusWordRoundTrips := by
  refine ⟨fun x s => ⟨unpackFlags x, exec_swDecode x s, fun t => ?_, fun hx t => ?_⟩,
    fun f s => ⟨packFlags f, exec_swEncode f s, fun t => ?_⟩⟩
  · rw [exec_swEncode, packFlags_unpackFlags]
  · rw [exec_swEncode, packFlags_unpackFlags, and_namedMask_of_reserved_clear hx]
  · rw [exec_swDecode, unpackFlags_packFlags]

/-! ### The order of the flags (R104) -/

/-- R104: the order of the visit does not matter. -/
theorem packOver_of_perm (f : Flags) {order : List Flag} (h : order.Perm flagOrder) : packOver f order 0 = packFlags f := by
  refine BitVec.eq_of_getLsbD_eq fun j _ => ?_
  rw [packFlags, packOver_getLsbD, packOver_getLsbD, h.any_eq]

/-- R101: setting a bit that is 0 adds its value. -/
theorem toNat_setBit {w : Word16} {i : Nat} (hi : i < 16) (hw : w.getLsbD i = false) :
    (w ||| ((1 : Word16) <<< i)).toNat = w.toNat + 2 ^ i := by
  have hbit : (1 : Word16) <<< i = BitVec.twoPow 16 i := (BitVec.twoPow_eq 16 i).symm
  have hdisjoint : w &&& BitVec.twoPow 16 i = 0 := by simp [BitVec.and_twoPow, hw]
  rw [hbit, ← BitVec.add_eq_or_of_and_eq_zero _ _ hdisjoint, BitVec.toNat_add_of_and_eq_zero hdisjoint, BitVec.toNat_twoPow,
    Nat.mod_eq_of_lt (Nat.pow_lt_pow_right (by decide) hi)]

/-- R104: where the flags have bits of their own that are not yet set, packing adds the values of those that are 1. -/
theorem packOver_toNat (f : Flags) (l : List Flag) (w : Word16) (hl : (l.map flagBit).Nodup)
    (hw : ∀ n ∈ l, w.getLsbD (flagBit n) = false) :
    (packOver f l w).toNat = w.toNat + ((l.filter (getFlag f)).map fun n => 2 ^ flagBit n).sum := by
  induction l generalizing w with
  | nil => rfl
  | cons n ns ih =>
    obtain ⟨hn, hns⟩ := List.nodup_cons.1 hl
    obtain ⟨hwn, hwns⟩ := List.forall_mem_cons.1 hw
    by_cases hf : getFlag f n = true
    · have hclear : ∀ m ∈ ns, (w ||| ((1 : Word16) <<< flagBit n)).getLsbD (flagBit m) = false := fun m hm => by
        have hne : flagBit n ≠ flagBit m := fun h => hn (List.mem_map.2 ⟨m, hm, h.symm⟩)
        rw [getLsbD_setBit _ _ _ (flagBit_lt n), hwns m hm, decide_eq_false hne, Bool.or_false]
      rw [packOver, if_pos hf, ih _ hns hclear, toNat_setBit (flagBit_lt n) hwn, List.filter_cons_of_pos hf, List.map_cons,
        List.sum_cons, Nat.add_assoc]
    · rw [packOver, if_neg hf, ih _ hns hwns, List.filter_cons_of_neg hf]

/-- Settles O14: a bit of the word does not see the order, and in any order the flags' bits are distinct and clear at first. -/
theorem flagOrderDoesNotMatter : Obligations.FlagOrderDoesNotMatter := by
  intro f order s horder
  have hnodup : (order.map flagBit).Nodup := (horder.map flagBit).nodup_iff.2 flagOrder_bits_nodup
  refine ⟨by rw [exec_swEncode, packOver_of_perm f horder], ?_⟩
  simpa using packOver_toNat f order 0 hnodup fun _ _ => BitVec.getLsbD_zero

/-! ### A word as decimal text, and that text as a response line (R161, R165, R175) -/

/-- R161: decimal text is digits only. -/
theorem isDigit_of_mem_decDigits (fuel n : Nat) : ∀ b ∈ decDigits fuel n, isDigit b = true := by
  have one (d : Nat) (hd : d < 10) : isDigit (digitByte d) = true := by
    simp only [isDigit, digitByte_toNat d hd, Bool.and_eq_true, decide_eq_true_eq]
    omega
  induction fuel generalizing n with
  | zero => simp [decDigits]
  | succ fuel ih =>
    rw [decDigits]
    split
    · rename_i hn
      simpa using one n hn
    · intro b hb
      obtain hb | hb := List.mem_append.1 hb
      · exact ih _ b hb
      · obtain rfl := List.mem_singleton.1 hb
        exact one _ (Nat.mod_lt n (by decide))

/-- R161: the text of a number has a digit at least. -/
theorem decDigits_ne_nil (fuel n : Nat) : decDigits (fuel + 1) n ≠ [] := by
  rw [decDigits]
  split <;> simp

/-- R161: the text of a word has 1 to 5 bytes. -/
theorem dec16_length (w : Word16) : 1 ≤ (dec16 w).length ∧ (dec16 w).length ≤ 5 :=
  ⟨List.length_pos_iff.2 (decDigits_ne_nil 4 _), decDigits_length 5 _⟩

/-- R160: a non-empty text of digits is a value text. -/
theorem valueTextOk_of_digits {text : Bytes} (hne : text ≠ []) (hdigits : ∀ b ∈ text, isDigit b = true) : valueTextOk text = true := by
  have digit_clean : ∀ b : Byte, isDigit b = true → isTerminator b = false ∧ b ≠ questionMark ∧ b ≠ 0x4F#8 ∧ b ≠ 0x6F#8 := by decide
  cases text with
  | nil => exact absurd rfl hne
  | cons b bs =>
    have hterm : (b :: bs).any isTerminator = false :=
      List.any_eq_false.2 fun x hx => ne_true_of_eq_false (digit_clean x (hdigits x hx)).1
    obtain ⟨-, hmark, hupper, hlower⟩ := digit_clean b (hdigits b List.mem_cons_self)
    simp [valueTextOk, hterm, hmark, readsAsOk, okUpper, okLower, hupper, hlower]

/-- R160, R161: a word's decimal text is a value text. -/
theorem valueTextOk_dec16 (w : Word16) : valueTextOk (dec16 w) = true :=
  valueTextOk_of_digits (decDigits_ne_nil 4 _) (isDigit_of_mem_decDigits 5 _)

/-- R165: the body of a line that ends in CR LF. -/
theorem responseBody_crLf (body : Bytes) : responseBody (body ++ crLf) = some body := by
  have hlen : (body ++ crLf).length - 2 = body.length := by simp [crLf]
  rw [responseBody, hlen, List.drop_left, List.take_left]
  exact if_pos rfl

/-- R165: such a line is read by its body. -/
theorem parseResponse_crLf (body : Bytes) : parseResponse (body ++ crLf) = parseBody body := by
  rw [parseResponse, responseBody_crLf]

/-- R160, R165: a value text is read as the value it is. -/
theorem parseBody_of_valueTextOk {body : Bytes} (h : valueTextOk body = true) :
    parseBody body = { st := .done, rpKind := some .value, rpValue := some body } := by
  obtain ⟨⟨⟨hlen, hterm⟩, hmark⟩, hok⟩ : ((1 ≤ body.length ∧ body.any isTerminator = false) ∧ body.head? ≠ some questionMark) ∧
      readsAsOk body = false := by
    simpa only [valueTextOk, Bool.and_eq_true, Bool.not_eq_true', decide_eq_true_eq, beq_eq_false_iff_ne] using h
  rw [parseBody, if_neg (by simp [hterm]), if_neg (by simp [hok]), if_neg (by omega), if_neg hmark]

/-- R160, R165: RESP_PARSE reads a value's line as that value. -/
theorem execRespParse_valueLine {text : Bytes} {s : State} (h : valueTextOk text = true)
    (hlen : (text ++ crLf).length ≤ s.config.operandMax) :
    execRespParse (text ++ crLf) s = .next (s.respond { st := .done, rpKind := some .value, rpValue := some text }) := by
  have hfits : tooLong s (text ++ crLf) = false := decide_eq_false hlen.not_gt
  rw [execRespParse, hfits, parseResponse_crLf, parseBody_of_valueTextOk h]
  rfl

/-- R161, R175: DEC_TO_U16 reads the decimal text of a word as the word. -/
theorem execDecToU16_dec16 (w : Word16) {s : State} (hlen : (dec16 w).length ≤ s.config.operandMax) :
    execDecToU16 (dec16 w) s = .next (s.respond { st := .done, w := some w }) := by
  have hfits : tooLong s (dec16 w) = false := decide_eq_false hlen.not_gt
  have hne : (dec16 w).length ≠ 0 := Nat.one_le_iff_ne_zero.1 (dec16_length w).1
  have hread : decValueFrom 0 (dec16 w) = some w.toNat := decValueFrom_decDigits 5 _ (w.isLt.trans (by decide))
  have hrange : ¬ 65535 < w.toNat := Nat.not_lt.2 (Nat.le_of_lt_succ w.isLt)
  simp only [execDecToU16, hfits, hne, hread, hrange, Bool.false_eq_true, if_false, BitVec.ofNat_toNat, BitVec.setWidth_eq]
  rfl

/-- Settles O42: the line is the word's decimal text and CR LF, at most 7 bytes, and each reader undoes its writer. -/
theorem statusReportTravelsAsDecimalText : Obligations.StatusReportTravelsAsDecimalText := by
  intro f s t _ ht
  obtain ⟨-, hmax⟩ := dec16_length (packFlags f)
  have hline : (dec16 (packFlags f) ++ crLf).length ≤ t.config.operandMax := by simp [crLf]; omega
  refine ⟨packFlags f, dec16 (packFlags f) ++ crLf, dec16 (packFlags f), exec_swEncode f s, rfl,
    execRespParse_valueLine (valueTextOk_dec16 _) hline, execDecToU16_dec16 _ (by omega), ?_⟩
  rw [exec_swDecode, unpackFlags_packFlags]

end Sys2Proof.Machine
end

section
/-! PROOFS. The tokenizer of spec 41 (R122 to R129): what FRAME_PARSE answers on each shape of frame, that what stands from the first
terminator on does not count, and the obligations from them. -/

namespace Sys2Proof.Machine

/-! ### FRAME_PARSE and its one fault (R122) -/

/-- R10: the bytes that end a frame. -/
theorem isTerminator_eq_true (b : Byte) : isTerminator b = true ↔ b = cr ∨ b = lf := by simp [isTerminator]

/-- R10: the bytes that do not. -/
theorem isTerminator_eq_false (b : Byte) : isTerminator b = false ↔ b ≠ cr ∧ b ≠ lf := by simp [isTerminator]

/-- R202: a frame longer than OPERAND_MAX faults. -/
theorem exec_frameParse_of_long {text : Bytes} {s : State} (h : s.config.operandMax < text.length) :
    exec (.frameParse text) s = .next (s.respond (faultResponse .operandTooLong)) :=
  (parseFrame_cases text s).elim And.right fun ⟨hfits, _⟩ => absurd h hfits.not_gt

/-- R122: any other frame is answered by `parse`. -/
theorem exec_frameParse_of_fits {text : Bytes} {s : State} (h : text.length ≤ s.config.operandMax) :
    exec (.frameParse text) s = .next (s.respond (frameResponse (s.parse text))) :=
  (parseFrame_cases text s).elim (fun ⟨hlong, _⟩ => absurd hlong h.not_gt) And.right

/-- Settles O17, by the fields `frameResponse` sets for each result of `parse`. -/
theorem frameParseAnswersTheParse : Obligations.FrameParseAnswersTheParse := by
  refine fun text s => ⟨exec_frameParse_of_long, fun hfits => ⟨fun kind addr kw arg hp => ?frame, fun reason hp => ?perr⟩⟩ <;>
    rw [exec_frameParse_of_fits hfits, State.parse, hp] <;> rfl

/-! ### The address (R123) -/

section
variable {ws : Bytes} {rows : List KwRow} {addr : Addr}

/-- R123: a frame without a `:` has no address. -/
theorem parse_of_no_colon {text : Bytes} (h : ∀ b ∈ text, b ≠ colon) : parse ws rows addr text = .perr .addressMismatch := by
  have hnone : findFirst (· == colon) text = none := (findFirst_eq_none _ _).2 fun b hb => beq_false_of_ne (h b hb)
  rw [parse, hnone]

/-- R123: the part before the first `:` decides between a mismatch and the later steps. -/
theorem parse_of_first_colon {before : Bytes} (rem : Bytes) (h : ∀ b ∈ before, b ≠ colon) :
    parse ws rows addr (before ++ colon :: rem) =
      if before ≠ [semicolon] ++ addr.bytes then .perr .addressMismatch else parseRemainder ws rows addr rem := by
  have hsome : findFirst (· == colon) (before ++ colon :: rem) = some before.length :=
    findFirst_append _ before rem colon (fun b hb => beq_false_of_ne (h b hb)) (beq_self_eq_true colon)
  have hrem : (before ++ colon :: rem).drop (before.length + 1) = rem := by simp
  simp only [parse, hsome, List.take_left, hrem]

/-- R123: a wrong part before the first `:` is a mismatch, whatever follows. -/
theorem parse_of_wrong_address {before : Bytes} (rem : Bytes) (h : ∀ b ∈ before, b ≠ colon)
    (hne : before ≠ [semicolon] ++ addr.bytes) : parse ws rows addr (before ++ colon :: rem) = .perr .addressMismatch := by
  rw [parse_of_first_colon rem h, if_pos hne]

end

/-- R123: FRAME_PARSE of what begins with the header for CFG_ADDR. -/
theorem exec_frameParse_header {s : State} {rem : Bytes} (ha : legalAddr s.cfgAddr = true)
    (hlen : (s.header ++ rem).length ≤ s.config.operandMax) :
    exec (.frameParse (s.header ++ rem)) s =
      .next (s.respond (frameResponse (parseRemainder s.config.ws s.kwTable s.cfgAddr rem))) := by
  rw [exec_frameParse_of_fits hlen, State.parse, State.header, parse_header _ _ _ ha]

/-- Settles O21: a missing or a wrong part before the first `:` is a mismatch, and the right one is the header. -/
theorem frameMustCarryTheConfiguredAddress : Obligations.FrameMustCarryTheConfiguredAddress := by
  intro text s hlen
  refine ⟨fun hbad => ?mismatch, fun rem ha htext => ?header⟩
  case mismatch =>
    have hp : s.parse text = .perr .addressMismatch := by
      obtain hno | ⟨before, rem, rfl, hbefore, hne⟩ := hbad
      · exact parse_of_no_colon hno
      · exact parse_of_wrong_address rem hbefore hne
    rw [exec_frameParse_of_fits hlen, hp]
    rfl
  case header =>
    obtain rfl : text = s.header ++ rem := htext
    exact exec_frameParse_header ha hlen

/-! ### The terminator (R124) -/

/-- R124: a remainder without a terminator is incomplete. -/
theorem parseRemainder_of_no_terminator (ws : Bytes) (rows : List KwRow) (addr : Addr) {rem : Bytes}
    (h : ∀ b ∈ rem, isTerminator b = false) : parseRemainder ws rows addr rem = .perr .incomplete := by
  rw [parseRemainder, (findFirst_eq_none _ _).2 h]

/-- R123, R124: FRAME_PARSE of a terminated frame for CFG_ADDR is decided by its payload. -/
theorem exec_frameParse_payload {s : State} {payload after : Bytes} {c : Byte} (ha : legalAddr s.cfgAddr = true)
    (hp : ∀ b ∈ payload, isTerminator b = false) (hc : isTerminator c = true)
    (hlen : (s.header ++ payload ++ c :: after).length ≤ s.config.operandMax) :
    exec (.frameParse (s.header ++ payload ++ c :: after)) s =
      .next (s.respond (frameResponse (parsePayload s.config.ws s.kwTable s.cfgAddr payload))) := by
  rw [List.append_assoc] at hlen ⊢
  rw [exec_frameParse_header ha hlen, parseRemainder_terminated _ _ _ _ _ _ hp hc]

/-- Settles O22, by whether the remainder has a terminator. -/
theorem payloadEndsAtTheFirstTerminator : Obligations.PayloadEndsAtTheFirstTerminator := by
  refine fun s ha => ⟨fun rem hrem hlen => ?incomplete, fun payload c after hp hc hlen => ?terminated⟩
  case incomplete =>
    rw [exec_frameParse_header ha hlen, parseRemainder_of_no_terminator _ _ _ fun b hb => (isTerminator_eq_false b).2 (hrem b hb)]
    rfl
  case terminated =>
    exact exec_frameParse_payload ha (fun b hb => (isTerminator_eq_false b).2 (hp b hb)) ((isTerminator_eq_true c).2 hc) hlen

/-! ### The query and the action forms (R125, R126) -/

/-- R125: two tokens before the `?`, or one and any after it, are too many. -/
theorem parseQuery_of_many (addr : Addr) {ts us : List Bytes} (h : 2 ≤ ts.length ∨ (ts ≠ [] ∧ us ≠ [])) :
    parseQuery addr ts us = .perr .unrecognizedKeyword := by
  match ts, us with
  | [], _ => simp at h
  | [_], [] => simp at h
  | [_], _ :: _ => rfl
  | _ :: _ :: _, _ => rfl

/-- Settles O23: the payload is a query, judged by the tokens on the two sides of its first `?`. -/
theorem queryFormIsOneKeywordBeforeTheMark : Obligations.QueryFormIsOneKeywordBeforeTheMark := by
  intro s before after tail c text ts us ha hlen hbefore hafter hc
  have htext : text = s.header ++ (before ++ questionMark :: after) ++ c :: tail := by
    simp only [text, List.append_assoc]; rfl
  have hopen : ∀ b ∈ before ++ questionMark :: after, isTerminator b = false := by
    intro b hb
    obtain hb | rfl | hb : b ∈ before ∨ b = questionMark ∨ b ∈ after := by simpa using hb
    · obtain ⟨hcr, hlf, -⟩ := hbefore b hb
      exact (isTerminator_eq_false b).2 ⟨hcr, hlf⟩
    · rfl
    · exact (isTerminator_eq_false b).2 (hafter b hb)
  have hexec : exec (.frameParse text) s = .next (s.respond (frameResponse (parseQuery s.cfgAddr ts us))) := by
    rw [htext] at hlen ⊢
    rw [exec_frameParse_payload ha hopen ((isTerminator_eq_true c).2 hc) hlen,
      parsePayload_query _ _ _ _ _ fun b hb => (hbefore b hb).2.2]
  rw [hexec]
  refine ⟨fun hts => ?none, fun hmany => ?many, fun t hts hus => ?one⟩
  case none => rw [hts]; rfl
  case many => rw [parseQuery_of_many _ hmany]; rfl
  case one => rw [hts, hus]; rfl

/-- R126: three tokens are too many. -/
theorem parseAction_of_many (rows : List KwRow) (addr : Addr) {ts : List Bytes} (h : 3 ≤ ts.length) :
    parseAction rows addr ts = .perr .unrecognizedKeyword := by
  match ts with
  | [] | [_] | [_, _] => simp at h
  | _ :: _ :: _ :: _ => rfl

/-- R126: one token of no row is not recognised. -/
theorem parseOneToken_of_unknown {rows : List KwRow} {t : Bytes} (addr : Addr) (h : keywordClass rows t = none) :
    parseOneToken rows addr t = .perr .unrecognizedKeyword := by
  rw [parseOneToken, h]

/-- Settles O24, by the number of tokens of the payload and, for one, by its class. -/
theorem actionFormIsClassifiedByItsTokens : Obligations.ActionFormIsClassifiedByItsTokens := by
  intro s payload tail c text ts ha hlen hpayload hc
  have hopen : ∀ b ∈ payload, isTerminator b = false := fun b hb =>
    let ⟨hcr, hlf, _⟩ := hpayload b hb
    (isTerminator_eq_false b).2 ⟨hcr, hlf⟩
  have hexec : exec (.frameParse text) s = .next (s.respond (frameResponse (parseAction s.kwTable s.cfgAddr ts))) := by
    rw [exec_frameParse_payload ha hopen ((isTerminator_eq_true c).2 hc) hlen,
      parsePayload_action _ _ _ _ fun b hb => (hpayload b hb).2.2]
  have hclass {t : Bytes} {k : KwClass} (hk : keywordClass s.kwTable t = some k) :
      parseAction s.kwTable s.cfgAddr [t] = oneTokenResult s.cfgAddr t k := parseOneToken_of_class s.cfgAddr hk
  rw [hexec]
  refine ⟨fun hts => ?none, fun t hts => ?one, fun t u hts => ?two, fun hmany => ?many⟩
  case none => rw [hts]; rfl
  case one =>
    rw [hts]
    refine ⟨fun hk => ?only, fun hk => ?arg, fun hk => ?qonly, fun hk => ?unknown⟩
    case only | arg | qonly => rw [hclass hk]; rfl
    case unknown => rw [parseAction, parseOneToken_of_unknown _ hk]; rfl
  case two => rw [hts]; rfl
  case many => rw [parseAction_of_many _ _ hmany]; rfl

/-! ### The laws of `parse` (R129) -/

/-- R11: a text with a byte of X is cut at the first one. -/
theorem exists_first {inX : Byte → Bool} {text : Bytes} (h : ∃ b ∈ text, inX b = true) :
    ∃ before b after, text = before ++ b :: after ∧ inX b = true ∧ ∀ x ∈ before, inX x = false := by
  cases hf : findFirst inX text with
  | none =>
    obtain ⟨b, hb, hX⟩ := h
    rw [(findFirst_eq_none inX text).1 hf b hb] at hX
    cases hX
  | some i =>
    obtain ⟨b, htext, hX, hbefore, -⟩ := findFirst_split inX text i hf
    exact ⟨_, b, _, htext, hX, hbefore⟩

section
variable {ws : Bytes} {rows : List KwRow} {addr : Addr}

/-- R123: a terminator before the first `:`, or with no `:` at all, is an address mismatch, as no legal address holds one. -/
theorem parse_of_terminator_before_colon {p after : Bytes} {c : Byte} (hp : ∀ b ∈ p, b ≠ colon) (hc : isTerminator c = true)
    (hafter : colon ∉ after ∨ legalAddr addr = true) : parse ws rows addr (p ++ c :: after) = .perr .addressMismatch := by
  have hpc : ∀ b ∈ p ++ [c], b ≠ colon := by
    intro b hb
    obtain hb | rfl : b ∈ p ∨ b = c := by simpa using hb
    · exact hp b hb
    · rintro rfl; cases hc
  rw [List.append_cons]
  by_cases hcolon : colon ∈ after
  · have ha := hafter.resolve_left (not_not_intro hcolon)
    obtain ⟨before, rem, rfl, hbefore⟩ := List.eq_append_cons_of_mem hcolon
    rw [← List.append_assoc]
    refine parse_of_wrong_address rem (fun b hb => ?_) fun heq => ?_
    · obtain hb | hb := List.mem_append.1 hb
      · exact hpc b hb
      · exact fun h => hbefore (h ▸ hb)
    · have hmem : c ∈ [semicolon] ++ addr.bytes := heq ▸ by simp
      obtain h | h := List.mem_cons.1 hmem
      · rw [h] at hc; cases hc
      · rw [(legalAddr_bytes addr ha c h).2] at hc; cases hc
  · refine parse_of_no_colon fun b hb => ?_
    obtain hb | hb := List.mem_append.1 hb
    · exact hpc b hb
    · exact fun h => hcolon (h ▸ hb)

/-- R129: neither which terminator ends the frame nor what follows it counts. Where a `:` may follow, the address must be legal. -/
theorem parse_terminated {p after : Bytes} {c : Byte} (hp : ∀ b ∈ p, isTerminator b = false) (hc : isTerminator c = true)
    (hafter : colon ∉ after ∨ legalAddr addr = true) : parse ws rows addr (p ++ c :: after) = parse ws rows addr (p ++ [cr]) := by
  by_cases hcolon : colon ∈ p
  · obtain ⟨before, rem, rfl, hbefore⟩ := List.eq_append_cons_of_mem hcolon
    have hno : ∀ b ∈ before, b ≠ colon := fun b hb h => hbefore (h ▸ hb)
    have hrem : ∀ b ∈ rem, isTerminator b = false := fun b hb => hp b (by simp [hb])
    rw [List.append_assoc, List.append_assoc, List.cons_append, List.cons_append, parse_of_first_colon _ hno,
      parse_of_first_colon _ hno, parseRemainder_terminated _ _ _ rem after c hrem hc,
      parseRemainder_terminated _ _ _ rem [] cr hrem rfl]
  · have hno : ∀ b ∈ p, b ≠ colon := fun b hb h => hcolon (h ▸ hb)
    rw [parse_of_terminator_before_colon hno hc hafter, parse_of_terminator_before_colon hno rfl (.inl (by simp))]

/-- R129: bytes after a terminator do not count, even where an earlier one already ended the frame. -/
theorem parse_append_after_terminator (ha : legalAddr addr = true) (text after : Bytes) {c : Byte} (hc : isTerminator c = true) :
    parse ws rows addr (text ++ [c] ++ after) = parse ws rows addr (text ++ [c]) := by
  obtain ⟨p, d, later, htext, hd, hp⟩ := exists_first (text := text ++ [c]) ⟨c, by simp, hc⟩
  rw [htext, List.append_assoc, List.cons_append, parse_terminated hp hd (.inr ha), parse_terminated hp hd (.inr ha)]

/-- R121: a token of a text without terminators and `?` is clean. -/
theorem cleanToken_of_mem_tokens {text t : Bytes} (htext : ∀ b ∈ text, isTerminator b = false ∧ b ≠ questionMark)
    (ht : t ∈ tokens ws text) : cleanToken ws t :=
  ⟨tokensFrom_ne_nil ws [] text t ht, fun b hb =>
    let ⟨hgood, hspace⟩ := tokensFrom_bytes ws text _ htext [] (by simp) t ht b hb
    ⟨hspace, hgood⟩⟩

/-- R129: an accepted frame has the address it was parsed for, a clean keyword, and a clean argument exactly where it is an
ACTION_ARG. -/
theorem parse_frame_clean {text : Bytes} {kind : FrameKind} {a : Addr} {kw : Bytes} {arg : Option Bytes}
    (h : parse ws rows addr text = .frame kind a kw arg) :
    a = addr ∧ cleanToken ws kw ∧ (kind = .actionArg → ∃ x, arg = some x ∧ cleanToken ws x) ∧ (kind ≠ .actionArg → arg = none) := by
  obtain ⟨payload, hopen, -, hpayload⟩ := parse_frame _ _ _ _ _ _ _ _ h
  obtain ⟨haddr, part, hpart, -, hkw, harg⟩ := parsePayload_frame _ _ _ _ _ _ _ _ hpayload
  have clean {t : Bytes} : t ∈ tokens ws part → cleanToken ws t :=
    cleanToken_of_mem_tokens fun b hb => ⟨hopen b (hpart b hb).1, (hpart b hb).2⟩
  refine ⟨haddr, clean hkw, fun hkind => ?argument, fun hkind => ?noArgument⟩
  case argument =>
    obtain ⟨hother, -⟩ | ⟨-, x, hx, hmem⟩ := harg
    · exact absurd hkind hother
    · exact ⟨x, hx, clean hmem⟩
  case noArgument =>
    obtain ⟨-, hnone⟩ | ⟨hsame, -⟩ := harg
    · exact hnone
    · exact absurd hsame hkind

end

/-- Settles O25: both terminator laws compare with the frame ended by a CR alone, and the others are what `parse` can answer. -/
theorem parseLaws : Obligations.ParseLaws := by
  refine fun ws rows addr ha => ⟨fun p hp => ?_, fun text c after hc => ?_, fun _ _ _ _ _ h => parse_frame_clean h,
    fun _ reason _ => reason.pcode_mem⟩
  · have hopen : ∀ b ∈ p, isTerminator b = false := fun b hb => (isTerminator_eq_false b).2 (hp b hb)
    exact ⟨(parse_terminated hopen (c := lf) rfl (.inr ha)).symm, (parse_terminated hopen (c := cr) rfl (.inr ha)).symm⟩
  · exact parse_append_after_terminator ha text after ((isTerminator_eq_true c).2 hc)

end Sys2Proof.Machine
end

section
/-! PROOFS. Building a command frame (R120), and that a frame built of clean tokens is tokenized back to them (R121). -/

namespace Sys2Proof.Machine

/-- R202: the length check of one operand. -/
theorem tooLong_eq_true (s : State) (text : Bytes) : tooLong s text = true ↔ s.config.operandMax < text.length := decide_eq_true_iff

/-- R202: what the length check passes. -/
theorem tooLong_eq_false (s : State) (text : Bytes) : tooLong s text = false ↔ ¬ s.config.operandMax < text.length :=
  decide_eq_false_iff_not

/-- R202: the length check of the operand `G`. -/
theorem argTooLong_eq_true (s : State) (g : Option Bytes) :
    argTooLong s g = true ↔ ∃ x, g = some x ∧ s.config.operandMax < x.length := by
  cases g <;> simp [argTooLong, tooLong_eq_true]

/-- R202: what it passes of the operand `G`, which may be absent. -/
theorem argTooLong_eq_false (s : State) (g : Option Bytes) :
    argTooLong s g = false ↔ ∀ x, g = some x → ¬ s.config.operandMax < x.length := by
  cases g <;> simp [argTooLong, tooLong_eq_false]

section
variable {a kw : Bytes} {g : Option Bytes} {s : State}

/-- R120: an operand longer than OPERAND_MAX comes first among the faults (R203). -/
theorem exec_cmdEncode_of_long_operand (h : tooLong s a = true ∨ tooLong s kw = true ∨ argTooLong s g = true) :
    exec (.cmdEncode a kw g) s = .next (s.respond (faultResponse .operandTooLong)) := by
  change execCmdEncode a kw g s = _
  unfold execCmdEncode
  obtain h | h | h := h
  · rw [h]; rfl
  · rw [h, Bool.or_true]; rfl
  · rw [h, if_pos rfl, ite_self]; rfl

/-- R120: where every operand fits, an empty keyword is malformed, and otherwise the frame is answered if it fits. -/
theorem exec_cmdEncode_of_operands_fit (ha : tooLong s a = false) (hkw : tooLong s kw = false) (hg : argTooLong s g = false) :
    exec (.cmdEncode a kw g) s =
      if kw.length = 0 then raiseFault s .malformedCommand
      else if tooLong s (buildFrame a kw g) then raiseFault s .operandTooLong
      else complete s { st := .done, out := some (buildFrame a kw g) } := by
  change execCmdEncode a kw g s = _
  simp [execCmdEncode, ha, hkw, hg]

end

/-- Settles O15, by the order of the checks (R203): the operands, the keyword, the frame. -/
theorem cmdEncodeBuildsTheFrame : Obligations.CmdEncodeBuildsTheFrame := by
  intro a kw g s long arg frame
  have hframe : frame = buildFrame a kw g := by
    have harg : arg = argumentPart g := by rcases g with _ | _ | ⟨b, bs⟩ <;> rfl
    simp only [frame, harg]; rfl
  refine ⟨fun hlong => ?longOperand, fun ha hkw hg => ?operandsFit⟩
  case longOperand =>
    refine exec_cmdEncode_of_long_operand ?_
    rwa [tooLong_eq_true, tooLong_eq_true, argTooLong_eq_true]
  case operandsFit =>
    rw [exec_cmdEncode_of_operands_fit ((tooLong_eq_false s a).2 ha) ((tooLong_eq_false s kw).2 hkw)
      ((argTooLong_eq_false s g).2 hg), ← hframe]
    refine ⟨fun hempty => ?_, fun hne hlong => ?_, fun hne hfits => ?_⟩
    · rw [hempty]; rfl
    · rw [if_neg (by simpa using hne), if_pos ((tooLong_eq_true s frame).2 hlong)]; rfl
    · rw [if_neg (by simpa using hne), if_neg (ne_true_of_eq_false ((tooLong_eq_false s frame).2 hfits))]; rfl

/-- R120: an OUT is the built frame, which fits. -/
theorem out_of_exec_cmdEncode {a kw out : Bytes} {g : Option Bytes} {s : State}
    (h : exec (.cmdEncode a kw g) s = .next (s.respond { st := .done, out := some out })) :
    out = buildFrame a kw g ∧ (buildFrame a kw g).length ≤ s.config.operandMax := by
  obtain ⟨r, e, hr⟩ := execCmdEncode_answers a kw g s
  have hresp : r = { st := .done, out := some out } := by
    have hstate := Host.Outcome.next.inj (e.symm.trans h)
    exact Option.some.inj (congrArg State.response hstate)
  obtain rfl | ⟨-, rfl⟩ | ⟨hlen, rfl⟩ := hr
  · cases hresp
  · cases hresp
  · cases hresp; exact ⟨rfl, hlen⟩

/-- R121: FRAME_PARSE of a frame CMD_ENCODE built for CFG_ADDR is decided by the keyword and argument part. -/
theorem exec_frameParse_of_built {s : State} {kw out : Bytes} {g : Option Bytes} (ha : legalAddr s.cfgAddr = true)
    (h : exec (.cmdEncode s.cfgAddr.bytes kw g) s = .next (s.respond { st := .done, out := some out }))
    (hopen : ∀ b ∈ kw ++ argumentPart g, isTerminator b = false) :
    exec (.frameParse out) s =
      .next (s.respond (frameResponse (parsePayload s.config.ws s.kwTable s.cfgAddr (kw ++ argumentPart g)))) := by
  obtain ⟨rfl, hlen⟩ := out_of_exec_cmdEncode h
  have hbuilt : buildFrame s.cfgAddr.bytes kw g = s.header ++ (kw ++ argumentPart g) ++ [cr] := by
    rw [← List.append_assoc]; rfl
  rw [hbuilt] at hlen ⊢
  exact exec_frameParse_payload ha hopen rfl hlen

/-- R121: a clean token is one token. -/
theorem tokens_of_cleanToken {ws t : Bytes} (h : cleanToken ws t) : tokens ws t = [t] :=
  tokens_word ws t h.1 fun b hb => (h.2 b hb).1

/-- R121: two clean tokens with a space between them are two tokens. -/
theorem tokens_of_two_cleanTokens {ws t u : Bytes} (hspace : isSpace ws space = true) (ht : cleanToken ws t)
    (hu : cleanToken ws u) : tokens ws (t ++ space :: u) = [t, u] := by
  calc tokens ws (t ++ space :: u)
    _ = tokens ws t ++ tokens ws u := tokensFrom_space ws [] t u space hspace
    _ = [t, u] := by rw [tokens_of_cleanToken ht, tokens_of_cleanToken hu]; rfl

/-- R120: the argument part of a clean token. -/
theorem argumentPart_of_ne_nil {x : Bytes} (h : x ≠ []) : argumentPart (some x) = space :: x := by
  rw [argumentPart, if_neg (by simpa using h)]
  rfl

/-- Settles O16: the payload of the built frame has the tokens it was built of, in each of the three forms. -/
theorem builtFrameParsesBack : Obligations.BuiltFrameParsesBack := by
  intro s kw out g ha hspace hbuilt
  refine ⟨fun x hg hkw hx => ?actionArg, fun k hg hk hclean => ?query, fun hg hkw honly => ?actionOnly⟩
  case actionArg =>
    subst hg
    have hpart : kw ++ argumentPart (some x) = kw ++ space :: x := by rw [argumentPart_of_ne_nil hx.1]
    have hbytes : ∀ b ∈ kw ++ space :: x, isTerminator b = false ∧ b ≠ questionMark := by
      intro b hb
      obtain hb | rfl | hb : b ∈ kw ∨ b = space ∨ b ∈ x := by simpa using hb
      · exact (hkw.2 b hb).2
      · decide
      · exact (hx.2 b hb).2
    rw [exec_frameParse_of_built ha hbuilt (by rw [hpart]; exact fun b hb => (hbytes b hb).1), hpart,
      parsePayload_action _ _ _ _ fun b hb => (hbytes b hb).2, tokens_of_two_cleanTokens hspace hkw hx]
    rfl
  case query =>
    subst hg hk
    have hpart : (k ++ [0x3F]) ++ argumentPart none = k ++ questionMark :: [] := List.append_nil _
    have hopen : ∀ b ∈ k ++ questionMark :: [], isTerminator b = false := by
      intro b hb
      obtain hb | rfl : b ∈ k ∨ b = questionMark := by simpa using hb
      · exact (hclean.2 b hb).2.1
      · rfl
    rw [exec_frameParse_of_built ha hbuilt (by rwa [hpart]), hpart,
      parsePayload_query _ _ _ _ _ fun b hb => (hclean.2 b hb).2.2, tokens_of_cleanToken hclean]
    rfl
  case actionOnly =>
    subst hg
    have hpart : kw ++ argumentPart none = kw := List.append_nil _
    rw [exec_frameParse_of_built ha hbuilt (by rw [hpart]; exact fun b hb => (hkw.2 b hb).2.1), hpart,
      parsePayload_action _ _ _ _ fun b hb => (hkw.2 b hb).2.2, tokens_of_cleanToken hkw, parseAction,
      parseOneToken_of_class _ honly]
    rfl

end Sys2Proof.Machine
end

section
/-! PROOFS. The frame assembler (R130 to R132): what RX_PUSH does with each byte, a frame pushed byte by byte, and the obligations from
them. -/

namespace Sys2Proof.Machine

/-! ### One byte (R130, R131) -/

section
variable {c : Byte} {s : State}

/-- R130: the LF after a frame-ending CR is stripped. -/
theorem execRxPush_of_stripped (hc : c = lf) (hprev : s.rxPrevCr = true) :
    execRxPush c s = .next (s.stripLf.respond noFrameResponse) :=
  if_pos ⟨hc, hprev⟩

/-- R130: any other terminator ends the frame. -/
theorem execRxPush_of_ending (hc : c = cr ∨ (c = lf ∧ s.rxPrevCr = false)) :
    execRxPush c s = .next ((s.endFrame (c == cr)).respond (frameResponse (s.frameEnded c))) := by
  rw [execRxPush, if_neg, if_pos (hc.imp_right And.left)]
  · rfl
  · rintro ⟨rfl, hprev⟩
    simp [hprev, lf, cr] at hc

/-- R130: any other byte is collected. -/
theorem execRxPush_of_collected (hc : isTerminator c = false) :
    execRxPush c s = .next ((s.collect c).respond noFrameResponse) := by
  obtain ⟨hcr, hlf⟩ := (isTerminator_eq_false c).1 hc
  rw [execRxPush, if_neg fun h => hlf h.1, if_neg (not_or.2 ⟨hcr, hlf⟩)]
  rfl

/-- R130: where a byte was dropped, the frame's end is an overflow. -/
theorem frameEnded_of_overflow (c : Byte) (h : s.rxOvf = true) : s.frameEnded c = .perr .rxOverflow := if_pos h

/-- R130: where none was, it is the parse of the whole frame. -/
theorem frameEnded_of_no_overflow (c : Byte) (h : s.rxOvf = false) : s.frameEnded c = s.parse (s.rxBuf ++ [c]) :=
  if_neg (ne_true_of_eq_false h)

/-- R130: a byte is kept while there is room. -/
theorem collect_of_room (c : Byte) (h : s.rxBuf.length < s.config.rxCap) :
    s.collect c = { s with rxPrevCr := false, rxBuf := s.rxBuf ++ [c] } := if_pos h

/-- R130: a byte is dropped where there is none. -/
theorem collect_of_full (c : Byte) (h : s.config.rxCap ≤ s.rxBuf.length) :
    s.collect c = { s with rxPrevCr := false, rxOvf := true } := if_neg h.not_gt

end

/-- Settles O30, by what the byte does (R130) and, where it ends or lengthens a frame, by the overflow or the room. -/
theorem rxPushCollectsAndEndsFrames : Obligations.RxPushCollectsAndEndsFrames := by
  intro c s
  have hending (hc : c = 0x0D ∨ (c = 0x0A ∧ s.rxPrevCr = false)) :
      exec (.rxPush c) s = .next ((s.endFrame (c == cr)).respond (frameResponse (s.frameEnded c))) := execRxPush_of_ending hc
  have hcollected (hcr : c ≠ 0x0D) (hlf : c ≠ 0x0A) : exec (.rxPush c) s = .next ((s.collect c).respond noFrameResponse) :=
    execRxPush_of_collected ((isTerminator_eq_false c).2 ⟨hcr, hlf⟩)
  refine ⟨execRxPush_of_stripped, fun hc hovf => ?overflow, fun hc hovf => ?parsed, fun hcr hlf hroom => ?kept,
    fun hcr hlf hfull => ?dropped⟩
  case overflow => rw [hending hc, frameEnded_of_overflow c hovf]; rfl
  case parsed => rw [hending hc, frameEnded_of_no_overflow c hovf]; rfl
  case kept => rw [hcollected hcr hlf, collect_of_room c hroom]; rfl
  case dropped => rw [hcollected hcr hlf, collect_of_full c hfull]; rfl

/-- Settles O31: RX_RESET is `State.clearAssembler`. -/
theorem rxResetEmptiesTheAssembler : Obligations.RxResetEmptiesTheAssembler := fun s =>
  (rfl : exec .rxReset s = .next (s.clearAssembler.respond { st := .done }))

/-! ### A frame, byte by byte (R132) -/

/-- The state while a frame is collected: `buf` in RX_BUF, `later` still to come from the host, and NONE on the port. -/
def State.collecting (s : State) (buf : Bytes) (later : List HostInput) : State :=
  { s with rxBuf := buf, rxPrevCr := false, inputs := later, response := some noFrameResponse }

/-- R42: a step and the steps after it. -/
theorem stepTimes_succ {s t : State} (k : Nat) (h : step s = .next t) : stepTimes (k + 1) s = stepTimes k t := by
  rw [stepTimes, h]

/-- R42: one more step after those that reached `t`. -/
theorem stepTimes_succ_last {s t : State} {k : Nat} (h : stepTimes k s = .next t) : stepTimes (k + 1) s = step t := by
  rw [stepTimes_add k 1 s t h, stepTimes]
  cases step t <;> rfl

section
variable {s : State} {rest : List HostInput}

/-- R130: a pushed byte of a frame, where there is room. -/
theorem step_collects {c : Byte} {cs : Bytes} (hc : isTerminator c = false) (hroom : s.rxBuf.length < s.config.rxCap)
    (hin : s.inputs = pushes (c :: cs) ++ rest) : step s = .next (s.collecting (s.rxBuf ++ [c]) (pushes cs ++ rest)) := by
  rw [step_pushes s c cs rest hin]
  change execRxPush c _ = _
  rw [execRxPush_of_collected hc, collect_of_room c (by exact hroom)]
  rfl

/-- R132: the bytes of a frame that fits are collected, each answered NONE. -/
theorem stepTimes_collects {p later : Bytes} (hne : p ≠ []) (hp : ∀ b ∈ p, isTerminator b = false)
    (hroom : s.rxBuf.length + p.length ≤ s.config.rxCap) (hin : s.inputs = pushes (p ++ later) ++ rest) :
    stepTimes p.length s = .next (s.collecting (s.rxBuf ++ p) (pushes later ++ rest)) := by
  induction p generalizing s with
  | nil => exact absurd rfl hne
  | cons c cs ih =>
    obtain ⟨hc, hcs⟩ := List.forall_mem_cons.1 hp
    rw [List.length_cons] at hroom ⊢
    rw [stepTimes_succ _ (step_collects hc (by omega) hin)]
    cases cs with
    | nil => rfl
    | cons d ds =>
      have hroom' : (s.rxBuf ++ [c]).length + (d :: ds).length ≤ s.config.rxCap := by
        rw [List.length_append, List.length_singleton]
        omega
      rw [ih (List.cons_ne_nil d ds) hcs hroom' rfl]
      simp [State.collecting]

/-- R130: the pushed terminator of a frame of which no byte was dropped. -/
theorem step_ends_frame {buf : Bytes} {c : Byte} {cs : Bytes} (hovf : s.rxOvf = false) (hc : isTerminator c = true) :
    step (s.collecting buf (pushes (c :: cs) ++ rest)) = .next { s with
      rxBuf := [], rxPrevCr := c == cr, inputs := pushes cs ++ rest, response := some (frameResponse (s.parse (buf ++ [c]))) } := by
  rw [step_pushes _ c cs rest rfl]
  change execRxPush c _ = _
  rw [execRxPush_of_ending (((isTerminator_eq_true c).1 hc).imp_right fun h => ⟨h, rfl⟩), frameEnded_of_no_overflow c (by exact hovf)]
  simp only [State.endFrame, State.respond, State.collecting, State.parse, hovf]

end

/-- Settles O32: the bytes are collected, the first terminator ends the frame, for which what follows it does not count (R129), and the LF
after a CR is stripped. -/
theorem assemblerAgreesWithFrameParse : Obligations.AssemblerAgreesWithFrameParse := by
  intro s p term rest hbuf hovf hne hp hcap hterm hin
  have hopen : ∀ b ∈ p, isTerminator b = false := fun b hb => (isTerminator_eq_false b).2 (hp b hb)
  have hcollected (k : Nat) (hpos : 1 ≤ k) (hk : k ≤ p.length) :
      stepTimes k s = .next (s.collecting (p.take k) (pushes (p.drop k ++ term) ++ rest)) := by
    have hlen : (p.take k).length = k := List.length_take_of_le hk
    have h := stepTimes_collects (s := s) (p := p.take k) (later := p.drop k ++ term) (rest := rest)
      (List.ne_nil_of_length_pos (by omega)) (fun b hb => hopen b (List.mem_of_mem_take hb)) (by simp [hbuf]; omega)
      (by rw [← List.append_assoc, List.take_append_drop, hin])
    rwa [hlen, hbuf] at h
  have hall : stepTimes p.length s = .next (s.collecting p (pushes term ++ rest)) := by
    simpa using hcollected p.length (List.length_pos_iff.2 hne) le_rfl
  have hended (c : Byte) (cs : Bytes) (hc : isTerminator c = true) (hcs : colon ∉ cs) (h : term = c :: cs) :
      stepTimes (p.length + 1) s = .next { s with
        rxBuf := [], rxPrevCr := c == cr, inputs := pushes cs ++ rest,
        response := some (frameResponse (parse s.config.ws s.kwTable s.cfgAddr (p ++ term))) } := by
    rw [stepTimes_succ_last hall, h, step_ends_frame hovf hc, State.parse, parse_terminated hopen hc (.inl hcs),
      parse_terminated hopen hc (.inl (List.not_mem_nil))]
  refine ⟨hcollected, ?ends, fun hcrlf => ?stripped, fun hlen => exec_frameParse_of_fits hlen⟩
  case ends =>
    obtain rfl | rfl | rfl := hterm
    · exact hended cr [] rfl (by decide) rfl
    · exact hended lf [] rfl (by decide) rfl
    · exact hended cr [lf] rfl (by decide) rfl
  case stripped =>
    rw [stepTimes_succ_last (hended cr [lf] rfl (by decide) hcrlf), step_pushes _ lf [] rest rfl]
    exact execRxPush_of_stripped rfl rfl

end Sys2Proof.Machine
end

section
/-! PROOFS. The response codec of spec 42 (R160 to R176): the line RESP_FORMAT writes for each kind, how RESP_PARSE finds the body of a line
and reads it, decimal text in both directions, and the obligations from them. -/

namespace Sys2Proof.Machine

/-- R202: text of at most OPERAND_MAX bytes passes the length check. -/
theorem not_tooLong_of_le {s : State} {text : Bytes} (h : text.length ≤ s.config.operandMax) : ¬ tooLong s text = true :=
  ne_true_of_eq_false ((tooLong_eq_false s text).2 h.not_gt)

/-! ### Writing a line (R160) -/

/-- R10: whether a text holds a terminator. -/
theorem any_isTerminator_eq_true (text : Bytes) : text.any isTerminator = true ↔ cr ∈ text ∨ lf ∈ text := by
  simp only [List.any_eq_true, isTerminator_eq_true, and_or_left, exists_or, exists_eq_right]

/-- R160: what `value_text_ok` refuses. -/
theorem valueTextOk_eq_false (text : Bytes) : valueTextOk text = false ↔
    text = [] ∨ cr ∈ text ∨ lf ∈ text ∨ text.head? = some questionMark ∨ text = okUpper ∨ text = okLower := by
  simp only [valueTextOk, readsAsOk, Bool.and_eq_false_iff, Bool.not_eq_false', any_isTerminator_eq_true, Bool.or_eq_true,
    beq_iff_eq, decide_eq_false_iff_not, Nat.not_le, Nat.lt_one_iff, List.length_eq_zero_iff, or_assoc]

/-- R160: what it admits. -/
theorem valueTextOk_eq_true (text : Bytes) : valueTextOk text = true ↔
    text ≠ [] ∧ cr ∉ text ∧ lf ∉ text ∧ text.head? ≠ some questionMark ∧ text ≠ okUpper ∧ text ≠ okLower := by
  rw [← Bool.not_eq_false, valueTextOk_eq_false]
  simp only [not_or, ne_eq]

/-- R160, R170: the error codes that have a line and a description. -/
theorem codeInRange_eq_true (e : BitVec 4) : codeInRange e = true ↔ 1 ≤ e.toNat ∧ e.toNat ≤ 8 := by
  simp only [codeInRange, Bool.and_eq_true, decide_eq_true_eq]

section
variable {s : State} {text : Bytes}

/-- R160: a value text longer than OPERAND_MAX. -/
theorem exec_respFormat_of_long (h : s.config.operandMax < text.length) :
    exec (.respFormat (.valueText text)) s = .next (s.respond (faultResponse .operandTooLong)) :=
  if_pos ((tooLong_eq_true s text).2 h)

/-- R160: a text that is no value text. -/
theorem exec_respFormat_of_bad (hlen : text.length ≤ s.config.operandMax) (h : valueTextOk text = false) :
    exec (.respFormat (.valueText text)) s = .next (s.respond (faultResponse .badValue)) := by
  change execRespFormat (.valueText text) s = _
  rw [execRespFormat, if_neg (not_tooLong_of_le hlen), h]
  rfl

/-- R160: a value text is written where its line fits. -/
theorem exec_respFormat_of_ok (hlen : text.length ≤ s.config.operandMax) (h : valueTextOk text = true) :
    exec (.respFormat (.valueText text)) s =
      if tooLong s (text ++ crLf) then raiseFault s .operandTooLong
      else complete s { st := .done, out := some (text ++ crLf) } := by
  change execRespFormat (.valueText text) s = _
  rw [execRespFormat, if_neg (not_tooLong_of_le hlen), h]
  rfl

end

/-- Settles O35, by the kind; a value text by its length, then its content, then the length of its line (R203). -/
theorem respFormatWritesTheLine : Obligations.RespFormatWritesTheLine := by
  intro s
  refine ⟨rfl, fun text hlong => exec_respFormat_of_long hlong, fun text hlen hbad => ?refused,
    fun text hlen hne hcr hlf hmark hupper hlower => ?value, fun w => rfl, fun e hlo hhi => ?code, fun e he => ?noCode⟩
  case refused => exact exec_respFormat_of_bad hlen ((valueTextOk_eq_false text).2 hbad)
  case value =>
    have hok : valueTextOk text = true := (valueTextOk_eq_true text).2 ⟨hne, hcr, hlf, hmark, hupper, hlower⟩
    have hline : (text ++ crLf).length = text.length + 2 := List.length_append
    rw [exec_respFormat_of_ok hlen hok]
    exact ⟨fun hlong => if_pos ((tooLong_eq_true s _).2 (by omega)), fun hfits => if_neg (not_tooLong_of_le (by omega))⟩
  case code =>
    change execRespFormat (.error e) s = _
    rw [execRespFormat, (codeInRange_eq_true e).2 ⟨hlo, hhi⟩]
    rfl
  case noCode =>
    have hrange : codeInRange e = false := by
      rw [← Bool.not_eq_true, codeInRange_eq_true]
      omega
    change execRespFormat (.error e) s = _
    rw [execRespFormat, hrange]
    rfl

/-! ### The body of a line (R165) -/

/-- R165: the three ends of a line, as what the line ends in. -/
theorem responseBody_eq (text : Bytes) :
    responseBody text =
      if crLf <:+ text then some (text.take (text.length - 2))
      else if text.getLast? = some cr ∨ text.getLast? = some lf then some text.dropLast
      else none := by
  have ends (tail : Bytes) : text.drop (text.length - tail.length) = tail ↔ tail <:+ text := by
    rw [List.suffix_iff_eq_drop, eq_comm]
  have hcrlf : text.drop (text.length - 2) = [cr, lf] ↔ crLf <:+ text := ends crLf
  have hlast (b : Byte) : text.drop (text.length - 1) = [b] ↔ text.getLast? = some b :=
    (ends [b]).trans List.singleton_suffix_iff_getLast?_eq_some
  simp only [responseBody, hcrlf, hlast, List.dropLast_eq_take]

/-- R165: text that does not end in CR or LF is no line. -/
theorem responseBody_eq_none {text : Bytes} (hcr : text.getLast? ≠ some cr) (hlf : text.getLast? ≠ some lf) :
    responseBody text = none := by
  have hcrlf : ¬ crLf <:+ text := by
    rintro ⟨body, rfl⟩
    simp [crLf] at hlf
  rw [responseBody_eq, if_neg hcrlf, if_neg (not_or.2 ⟨hcr, hlf⟩)]

/-- R165: a lone CR or LF ends the line, as long as it is not the LF of a CR LF. -/
theorem responseBody_concat {body : Bytes} {c : Byte} (hc : isTerminator c = true) (hcrlf : ¬ crLf <:+ body ++ [c]) :
    responseBody (body ++ [c]) = some body := by
  have hlast : (body ++ [c]).getLast? = some cr ∨ (body ++ [c]).getLast? = some lf := by
    simpa using (isTerminator_eq_true c).1 hc
  rw [responseBody_eq, if_neg hcrlf, if_pos hlast, List.dropLast_concat]

/-- R165: a line is read by its one body. -/
theorem responseBody_of_lineWithBody {body text : Bytes} (h : lineWithBody body text) : responseBody text = some body := by
  obtain rfl | rfl | ⟨rfl, hlast⟩ := h
  · exact responseBody_crLf body
  · refine responseBody_concat rfl fun ⟨before, heq⟩ => ?_
    have hend := congrArg List.getLast? heq
    simp [crLf, cr, lf] at hend
  · refine responseBody_concat rfl fun ⟨before, heq⟩ => hlast ?_
    have hbody : before ++ [cr] = body := List.append_cancel_right (by simpa [crLf] using heq)
    simp [← hbody]

/-! ### Reading a body (R165) -/

/-- R165: a terminator inside the body. -/
theorem parseBody_of_terminator {body : Bytes} (h : cr ∈ body ∨ lf ∈ body) : parseBody body = malformedLine :=
  if_pos ((any_isTerminator_eq_true body).2 h)

/-- R165: a body that begins with `?` is no OK and not empty. -/
theorem parseBody_mark (rest : Bytes) : parseBody (questionMark :: rest) =
    if (questionMark :: rest).any isTerminator then malformedLine else parseErrorBody (questionMark :: rest) := rfl

/-- R165: the digit of an error code. -/
theorem parseBody_error {d : Byte} (hlo : 0x31 ≤ d.toNat) (hhi : d.toNat ≤ 0x38) :
    parseBody [questionMark, d] = { st := .done, rpKind := some .error, rpCode := some (BitVec.ofNat 4 (d.toNat - 0x30)) } := by
  have digit_open : ∀ b : Byte, 0x31 ≤ b.toNat → [questionMark, b].any isTerminator = false := by decide
  rw [parseBody_mark, if_neg (ne_true_of_eq_false (digit_open d hlo)), parseErrorBody, if_pos ⟨hlo, hhi⟩]

/-- R165: any other body that begins with `?`, whether it holds a terminator or not. -/
theorem parseBody_of_mark {body : Bytes} (hmark : body.head? = some questionMark)
    (hcode : ∀ d : Byte, body = [questionMark, d] → ¬ (0x31 ≤ d.toNat ∧ d.toNat ≤ 0x38)) : parseBody body = malformedLine := by
  obtain ⟨rest, rfl⟩ : ∃ rest, body = questionMark :: rest := List.head?_eq_some_iff.1 hmark
  have herror : parseErrorBody (questionMark :: rest) = malformedLine := by
    match rest with
    | [] => rfl
    | [d] => exact if_neg (hcode d rfl)
    | _ :: _ :: _ => rfl
  rw [parseBody_mark, herror, ite_self]

/-! ### RESP_PARSE (R165, R166) -/

/-- R202: a line longer than OPERAND_MAX faults. -/
theorem exec_respParse_of_long {text : Bytes} {s : State} (h : s.config.operandMax < text.length) :
    exec (.respParse text) s = .next (s.respond (faultResponse .operandTooLong)) :=
  if_pos ((tooLong_eq_true s text).2 h)

/-- R165: any other line is parsed. -/
theorem exec_respParse_of_fits {text : Bytes} {s : State} (h : text.length ≤ s.config.operandMax) :
    exec (.respParse text) s = .next (s.respond (parseResponse text)) :=
  if_neg (not_tooLong_of_le h)

/-- R165: a line that fits is classified by its body. -/
theorem exec_respParse_of_lineWithBody {body text : Bytes} {s : State} (hlen : text.length ≤ s.config.operandMax)
    (h : lineWithBody body text) : exec (.respParse text) s = .next (s.respond (parseBody body)) := by
  rw [exec_respParse_of_fits hlen, parseResponse, responseBody_of_lineWithBody h]

/-- Settles O37: the line's end fixes its body, and each kind of body has its response. -/
theorem respParseClassifiesTheLine : Obligations.RespParseClassifiesTheLine := by
  intro text s
  refine ⟨exec_respParse_of_long, fun hlen hcr hlf => ?noTerminator, fun body hlen hline => ?line⟩
  case noTerminator =>
    rw [exec_respParse_of_fits hlen, parseResponse, responseBody_eq_none hcr hlf]
    rfl
  case line =>
    rw [exec_respParse_of_lineWithBody hlen hline]
    refine ⟨fun hbad => ?_, fun hok => ?_, fun d hbody hlo hhi => ?_, fun hmark hcode => ?_,
      fun hcr hlf hne hupper hlower hmark => ?_⟩
    · obtain hcr | hlf | rfl := hbad
      · rw [parseBody_of_terminator (.inl hcr)]; rfl
      · rw [parseBody_of_terminator (.inr hlf)]; rfl
      · rfl
    · obtain rfl | rfl := hok <;> rfl
    · rw [show body = [questionMark, d] from hbody, parseBody_error hlo hhi]
    · rw [parseBody_of_mark hmark hcode]; rfl
    · rw [parseBody_of_valueTextOk ((valueTextOk_eq_true body).2 ⟨hne, hcr, hlf, hmark, hupper, hlower⟩)]

/-- R12: the response with which an operation went on is one of those it may give. -/
theorem Answers.response {x : Result} {s : State} {ok : Response → Prop} {r : Response} (h : Answers x s ok)
    (hx : x = .next (s.respond r)) : ok r := by
  obtain ⟨q, hq, hok⟩ := h
  have hstate : s.respond q = s.respond r := Host.Outcome.next.inj (hq.symm.trans hx)
  have hresp : q = r := Option.some.inj (congrArg State.response hstate)
  exact hresp ▸ hok

/-- R160, R165: the digit of an error code is read back as the code. -/
theorem parseBody_digitByte {e : BitVec 4} (he : codeInRange e = true) :
    parseBody [questionMark, digitByte e.toNat] = { st := .done, rpKind := some .error, rpCode := some e } := by
  obtain ⟨hlo, hhi⟩ := (codeInRange_eq_true e).1 he
  have hd : (digitByte e.toNat).toNat = 0x30 + e.toNat := digitByte_toNat e.toNat (by omega)
  rw [parseBody_error (by omega) (by omega), hd, Nat.add_sub_cancel_left, BitVec.ofNat_toNat, BitVec.setWidth_eq]

/-- Settles O38: a line that was written is a body and CR LF, and that body is read back, kind by kind. -/
theorem responseLinesRoundTrip : Obligations.ResponseLinesRoundTrip := by
  intro k s t o hlen hconfig hwritten
  have hread {body : Bytes} (ho : o = body ++ crLf) : exec (.respParse o) t = .next (t.respond (parseBody body)) :=
    exec_respParse_of_lineWithBody (by rwa [hconfig]) (.inl ho)
  have hline := (execRespFormat_answers k s).response hwritten
  cases k with
  | ok =>
    cases hline
    exact hread rfl
  | valueText text =>
    obtain h | h | ⟨hok, -, h⟩ := hline <;> cases h
    rw [hread rfl, parseBody_of_valueTextOk hok]
  | valueU16 w =>
    cases hline
    rw [hread rfl, parseBody_of_valueTextOk (valueTextOk_dec16 w)]
  | error e =>
    obtain h | ⟨he, h⟩ := hline <;> cases h
    rw [hread rfl, parseBody_digitByte he]

/-! ### Decimal text (R161, R175, R176) -/

/-- R175: the bytes of the decimal digits. -/
theorem isDigit_eq_true (b : Byte) : isDigit b = true ↔ 0x30 ≤ b.toNat ∧ b.toNat ≤ 0x39 := by
  simp only [isDigit, Bool.and_eq_true, decide_eq_true_eq]

/-- R175: digits are read, from the value so far, as the number they write. -/
theorem decValueFrom_of_digits (v : Nat) {text : Bytes} (h : ∀ b ∈ text, isDigit b = true) :
    decValueFrom v text = some (text.foldl (fun v b => 10 * v + (b.toNat - 0x30)) v) := by
  induction text generalizing v with
  | nil => rfl
  | cons b bs ih =>
    obtain ⟨hb, hbs⟩ := List.forall_mem_cons.1 h
    rw [decValueFrom, if_pos hb, ih _ hbs, List.foldl_cons]

/-- R175: a string of digits is read as its value. -/
theorem decValueFrom_zero_of_digits {text : Bytes} (h : ∀ b ∈ text, isDigit b = true) :
    decValueFrom 0 text = some (decimalValue text) := decValueFrom_of_digits 0 h

/-- R175: a byte that is no digit makes the text unreadable. -/
theorem decValueFrom_of_not_digits (v : Nat) {text : Bytes} (h : ¬ ∀ b ∈ text, isDigit b = true) : decValueFrom v text = none := by
  induction text generalizing v with
  | nil => simp at h
  | cons b bs ih =>
    rw [List.forall_mem_cons, not_and] at h
    rw [decValueFrom]
    split
    · rename_i hb
      exact ih _ (h hb)
    · rfl

/-- R161: the text of a number that is not 0 begins with a digit that is not 0. -/
theorem decDigits_leading (fuel n : Nat) (hpos : 0 < n) (hn : n < 10 ^ fuel) :
    ∃ d ds, decDigits fuel n = d :: ds ∧ d ≠ 0x30 := by
  induction fuel generalizing n with
  | zero =>
    rw [Nat.pow_zero] at hn
    omega
  | succ fuel ih =>
    rw [decDigits]
    split
    · rename_i hlt
      refine ⟨digitByte n, [], rfl, fun h => ?_⟩
      have hd : 0x30 = 0x30 + n := (congrArg BitVec.toNat h).symm.trans (digitByte_toNat n hlt)
      omega
    · obtain ⟨d, ds, hds, hd⟩ := ih (n / 10) (by omega) (by rw [Nat.pow_succ] at hn; omega)
      exact ⟨d, _, by rw [hds]; rfl, hd⟩

/-- R161: the text of a word is digits only. -/
theorem isDigit_of_mem_dec16 (w : Word16) : ∀ b ∈ dec16 w, isDigit b = true := isDigit_of_mem_decDigits 5 _

/-- R161: a word fits in the five digits `dec16` may write. -/
theorem toNat_lt_five_digits (w : Word16) : w.toNat < 10 ^ 5 := w.isLt.trans (by decide)

/-- R161: the digits of a word write the word. -/
theorem decimalValue_dec16 (w : Word16) : decimalValue (dec16 w) = w.toNat := by
  have hread : decValueFrom 0 (dec16 w) = some w.toNat := decValueFrom_decDigits 5 _ (toNat_lt_five_digits w)
  rw [decValueFrom_zero_of_digits (isDigit_of_mem_dec16 w)] at hread
  exact Option.some.inj hread

/-- Settles O36: the value by reading the text back, the first digit by `decDigits_leading`. -/
theorem decimalTextIsCanonical : Obligations.DecimalTextIsCanonical := by
  intro w
  refine ⟨decimalValue_dec16 w, fun b hb => ?digits, fun h => ?zero, fun hne => ?leading, dec16_length w⟩
  case digits => exact (isDigit_eq_true b).1 (isDigit_of_mem_dec16 w b hb)
  case zero => rw [h]; rfl
  case leading =>
    have hpos : 0 < w.toNat := Nat.pos_of_ne_zero fun h => hne (BitVec.eq_of_toNat_eq h)
    obtain ⟨d, ds, hds, hd⟩ := decDigits_leading 5 w.toNat hpos (toNat_lt_five_digits w)
    rw [dec16, hds]
    simpa using hd

section
variable {s : State} {text : Bytes}

/-- R175: text longer than OPERAND_MAX. -/
theorem exec_decToU16_of_long (h : s.config.operandMax < text.length) :
    exec (.decToU16 text) s = .next (s.respond (faultResponse .operandTooLong)) :=
  if_pos ((tooLong_eq_true s text).2 h)

/-- R175: empty text, or text in which the loop met a byte that is no digit. -/
theorem exec_decToU16_of_unreadable (hlen : text.length ≤ s.config.operandMax) (h : text = [] ∨ decValueFrom 0 text = none) :
    exec (.decToU16 text) s = .next (s.respond (faultResponse .notANumber)) := by
  change execDecToU16 text s = _
  rw [execDecToU16, if_neg (not_tooLong_of_le hlen)]
  obtain rfl | hread := h
  · rfl
  · rw [hread]
    exact ite_self _

/-- R175: text that reads as a number. -/
theorem exec_decToU16_of_readable {v : Nat} (hlen : text.length ≤ s.config.operandMax) (hne : text ≠ [])
    (hread : decValueFrom 0 text = some v) :
    exec (.decToU16 text) s =
      if 65535 < v then raiseFault s .notANumber else complete s { st := .done, w := some (BitVec.ofNat 16 v) } := by
  change execDecToU16 text s = _
  rw [execDecToU16, if_neg (not_tooLong_of_le hlen), if_neg (mt List.eq_nil_of_length_eq_zero hne), hread]

end

/-- Settles O40, by whether the text is all digits, which decides what the loop reads. -/
theorem decToU16ReadsDecimalText : Obligations.DecToU16ReadsDecimalText := by
  intro text s digits
  have hdigits : digits ↔ ∀ b ∈ text, isDigit b = true := by simp only [digits, isDigit_eq_true]
  refine ⟨exec_decToU16_of_long, fun hlen hbad => ?refused, fun hlen hne hall hrange => ?read⟩
  case refused =>
    by_cases hread : text = [] ∨ ¬ digits
    · exact exec_decToU16_of_unreadable hlen (hread.imp_right fun h => decValueFrom_of_not_digits 0 (mt hdigits.2 h))
    · obtain ⟨hne, hall⟩ : text ≠ [] ∧ digits := (not_or.1 hread).imp_right not_not.1
      have hlarge : 65535 < decimalValue text := (or_assoc.2 hbad).resolve_left hread
      rw [exec_decToU16_of_readable hlen hne (decValueFrom_zero_of_digits (hdigits.1 hall)), if_pos hlarge]
      rfl
  case read =>
    rw [exec_decToU16_of_readable hlen hne (decValueFrom_zero_of_digits (hdigits.1 hall)), if_neg hrange.not_gt]
    rfl

/-- Settles O41, by `execDecToU16_dec16`. -/
theorem decimalTextRoundTrips : Obligations.DecimalTextRoundTrips := fun w _ hlen => execDecToU16_dec16 w hlen

/-! ### The error descriptions (R170) -/

/-- R170: a code outside 1..8 has no description. -/
theorem errorText_eq_none {n : Nat} (h : n = 0 ∨ 9 ≤ n) : errorText n = none := by
  unfold errorText
  split
  case h_9 => rfl
  all_goals omega

/-- Settles O39: the eight descriptions compute, and every other code has none. -/
theorem errDescAnswersTheFixedStrings : Obligations.ErrDescAnswersTheFixedStrings := by
  refine fun s => ⟨rfl, rfl, rfl, rfl, rfl, rfl, rfl, rfl, fun e he => ?_⟩
  change execErrDesc e s = _
  rw [execErrDesc, errorText_eq_none he]
  rfl

end Sys2Proof.Machine
end

section
/-! PROOFS. The configuration of spec 43 (R190 to R193): which byte strings are legal addresses, the three outcomes of CFG_SET_ADDR, the
reserved selectors, and the obligations from them. -/

namespace Sys2Proof.Machine

/-! ### The legal addresses (R190) -/

/-- R190: an address is legal where each of its bytes is. -/
theorem legalAddr_eq_true (addr : Addr) :
    legalAddr addr = true ↔ ∀ b ∈ addr.bytes, 0x21 ≤ b.toNat ∧ b.toNat ≤ 0x7E ∧ b ≠ colon := by
  simp only [legalAddr, legalAddrByte, Addr.bytes, Bool.and_eq_true, decide_eq_true_eq, bne_iff_ne, and_assoc, List.forall_mem_cons,
    List.not_mem_nil, false_implies, implies_true, and_true]

/-- R190, R191: a byte string of another length, or with an illegal byte, is no legal address. -/
theorem legalAddress_eq_none {text : Bytes}
    (h : text.length ≠ 2 ∨ ∃ b ∈ text, ¬ (0x21 ≤ b.toNat ∧ b.toNat ≤ 0x7E ∧ b ≠ colon)) : legalAddress text = none := by
  refine Option.eq_none_iff_forall_ne_some.2 fun addr haddr => ?_
  obtain ⟨rfl, hlegal⟩ := (legalAddress_eq_some text addr).1 haddr
  obtain hlen | ⟨b, hb, hbad⟩ := h
  · exact hlen rfl
  · exact hbad ((legalAddr_eq_true addr).1 hlegal b hb)

/-! ### CFG_SET_ADDR (R191) -/

section
variable {s : State} {a : Bytes}

/-- R202: an operand longer than OPERAND_MAX. -/
theorem exec_cfgSetAddr_of_long (h : s.config.operandMax < a.length) :
    exec (.cfgSetAddr a) s = .next (s.respond (faultResponse .operandTooLong)) :=
  if_pos ((tooLong_eq_true s a).2 h)

/-- R191: an operand that is a legal address is taken. -/
theorem exec_cfgSetAddr_of_legal {addr : Addr} (hlen : a.length ≤ s.config.operandMax) (h : legalAddress a = some addr) :
    exec (.cfgSetAddr a) s = .next ((s.setAddr addr).respond { st := .done }) := by
  change execCfgSetAddr a s = _
  rw [execCfgSetAddr, if_neg (not_tooLong_of_le hlen), h]
  rfl

/-- R191: any other operand is refused. -/
theorem exec_cfgSetAddr_of_illegal (hlen : a.length ≤ s.config.operandMax) (h : legalAddress a = none) :
    exec (.cfgSetAddr a) s = .next (s.respond (faultResponse .badAddress)) := by
  change execCfgSetAddr a s = _
  rw [execCfgSetAddr, if_neg (not_tooLong_of_le hlen), h]
  rfl

end

/-- Settles O43: the length check first (R203), then whether the operand is a legal address. -/
theorem cfgSetAddrTakesLegalAddresses : Obligations.CfgSetAddrTakesLegalAddresses := by
  intro a s legalByte
  refine ⟨exec_cfgSetAddr_of_long, fun x y ha hmax hx hy => ?taken,
    fun hlen hbad => exec_cfgSetAddr_of_illegal hlen (legalAddress_eq_none hbad)⟩
  case taken =>
    subst ha
    have hlegal : legalAddr ⟨x, y⟩ = true :=
      (legalAddr_eq_true _).2 (List.forall_mem_cons.2 ⟨hx, List.forall_mem_singleton.2 hy⟩)
    exact exec_cfgSetAddr_of_legal hmax ((legalAddress_eq_some _ _).2 ⟨rfl, hlegal⟩)

/-! ### CFG_GET_ADDR and the reserved selectors (R192, R193) -/

/-- Settles O44: the answer is the meaning of the instruction. -/
theorem cfgGetAddrReturnsTheAddress : Obligations.CfgGetAddrReturnsTheAddress := fun _ => rfl

/-- Settles O45: the reserved instruction only raises its fault, and `decodeRequest_reserved` says that the request decodes to it. -/
theorem reservedSelectorIsIllegalOp : Obligations.ReservedSelectorIsIllegalOp := by
  refine ⟨fun _ _ => rfl, fun r s rest hop hs => ?_⟩
  have hdecode : decode (.request r) = .ok (.reserved r.op) := congrArg Except.ok (decodeRequest_reserved (decide_eq_true hop))
  rw [step_of_decode hdecode hs]
  rfl

end Sys2Proof.Machine
end

section
/-! PROOFS. The faults of spec 60 (R200, R201): which operations raise which, that an instruction which answers one of them has only put
it on the port, that no meaning reads what stands there, and the obligations from them. -/

namespace Sys2Proof.Machine

/-! ### What every instruction ends in -/

/-- R201: the "raised by" column, a keyword row as the FRAME_PARSE it is. -/
inductive Raises : Instr → OpFault → Prop where
  | reserved (op : BitVec 4) : Raises (.reserved op) .illegalOp
  | cmdEncodeLong (a kw : Bytes) (g : Option Bytes) : Raises (.cmdEncode a kw g) .operandTooLong
  | cmdEncodeNoKeyword (a : Bytes) (g : Option Bytes) : Raises (.cmdEncode a [] g) .malformedCommand
  | frameParseLong (text : Bytes) : Raises (.frameParse text) .operandTooLong
  | keywordLong {i : Instr} {t : Bytes} (h : encode i = .keyword t) : Raises i .operandTooLong
  | respFormatLong (text : Bytes) : Raises (.respFormat (.valueText text)) .operandTooLong
  | respFormatBadValue (text : Bytes) : Raises (.respFormat (.valueText text)) .badValue
  | respFormatBadCode (e : BitVec 4) : Raises (.respFormat (.error e)) .codeOutOfRange
  | respParseLong (text : Bytes) : Raises (.respParse text) .operandTooLong
  | errDescBadCode (e : BitVec 4) : Raises (.errDesc e) .codeOutOfRange
  | decToU16Long (text : Bytes) : Raises (.decToU16 text) .operandTooLong
  | decToU16Unreadable (text : Bytes) : Raises (.decToU16 text) .notANumber
  | cfgSetAddrLong (a : Bytes) : Raises (.cfgSetAddr a) .operandTooLong
  | cfgSetAddrIllegal (a : Bytes) : Raises (.cfgSetAddr a) .badAddress

/-- R200: the states in which the instruction `i` may leave the block it found in `s`: `DONE` is answered, or a fault that `i` raises is
answered and nothing else has changed. -/
inductive Ends (i : Instr) (s : State) : State → Prop where
  | done {t : State} {r : Response} (hr : t.response = some r) (hst : r.st = .done) : Ends i s t
  | fault {f : OpFault} (raised : Raises i f) : Ends i s (s.respond (faultResponse f))

/-- R122: FRAME_PARSE has the one fault of the length check, under whichever name it runs. -/
theorem parseFrame_ends {i : Instr} (text : Bytes) (s : State) (long : Raises i .operandTooLong) :
    ∃ t, parseFrame text s = .next t ∧ Ends i s t := by
  obtain ⟨_, e, rfl | ⟨-, rfl⟩⟩ := parseFrame_answers text s
  · exact ⟨_, e, .fault long⟩
  · exact ⟨_, e, .done rfl (frameResponse_st _)⟩

/-- R160: the two kinds that check their operand fault, each in its own way. -/
theorem execRespFormat_ends (k : RespOperand) (s : State) : ∃ t, execRespFormat k s = .next t ∧ Ends (.respFormat k) s t := by
  obtain ⟨r, e, hr⟩ := execRespFormat_answers k s
  refine ⟨_, e, ?_⟩
  cases k with
  | ok | valueU16 => subst hr; exact .done rfl rfl
  | valueText text =>
    obtain rfl | rfl | ⟨-, -, rfl⟩ := hr
    · exact .fault (.respFormatLong text)
    · exact .fault (.respFormatBadValue text)
    · exact .done rfl rfl
  | error code =>
    obtain rfl | ⟨-, rfl⟩ := hr
    · exact .fault (.respFormatBadCode code)
    · exact .done rfl rfl

/-- R165: a malformed line is a result, not a fault. -/
theorem parseResponse_st (text : Bytes) : (parseResponse text).st = .done := by
  obtain ⟨_, _, _, e, -, -⟩ := parseResponse_fields text
  rw [e]

/-- R200, R201: every instruction goes on, with `DONE` or with a fault of its own. -/
theorem exec_ends (i : Instr) (s : State) : ∃ t, exec i s = .next t ∧ Ends i s t := by
  cases i with
  | swEncode | swDecode | rxReset | cfgGetAddr => exact ⟨_, rfl, .done rfl rfl⟩
  | cmdEncode a kw g =>
    obtain ⟨_, e, rfl | ⟨rfl, rfl⟩ | ⟨-, rfl⟩⟩ := execCmdEncode_answers a kw g s
    · exact ⟨_, e, .fault (.cmdEncodeLong a kw g)⟩
    · exact ⟨_, e, .fault (.cmdEncodeNoKeyword a g)⟩
    · exact ⟨_, e, .done rfl rfl⟩
  | frameParse text => exact parseFrame_ends text s (.frameParseLong text)
  | respFormat k => exact execRespFormat_ends k s
  | respParse text =>
    obtain ⟨_, e, rfl | ⟨-, rfl⟩⟩ := execRespParse_answers text s
    · exact ⟨_, e, .fault (.respParseLong text)⟩
    · exact ⟨_, e, .done rfl (parseResponse_st text)⟩
  | errDesc code =>
    obtain ⟨_, e, rfl | ⟨_, -, rfl⟩⟩ := execErrDesc_answers code s
    · exact ⟨_, e, .fault (.errDescBadCode code)⟩
    · exact ⟨_, e, .done rfl rfl⟩
  | decToU16 text =>
    obtain ⟨_, e, rfl | rfl | ⟨_, rfl⟩⟩ := execDecToU16_answers text s
    · exact ⟨_, e, .fault (.decToU16Long text)⟩
    · exact ⟨_, e, .fault (.decToU16Unreadable text)⟩
    · exact ⟨_, e, .done rfl rfl⟩
  | rxPush c =>
    obtain ⟨-, -, e⟩ | ⟨-, e⟩ | ⟨-, e⟩ := execRxPush_cases c s
    · exact ⟨_, e, .done rfl noFrameResponse_st⟩
    · exact ⟨_, e, .done rfl (frameResponse_st _)⟩
    · exact ⟨_, e, .done rfl noFrameResponse_st⟩
  | cfgSetAddr a =>
    obtain ⟨_, e, f, hf, rfl⟩ | ⟨_, -, -, e⟩ := execCfgSetAddr_cases a s
    · have raised : Raises (.cfgSetAddr a) f := by
        obtain rfl | rfl := List.mem_pair.1 hf
        · exact .cfgSetAddrLong a
        · exact .cfgSetAddrIllegal a
      exact ⟨_, e, .fault raised⟩
    · exact ⟨_, e, .done rfl rfl⟩
  | reserved op => exact ⟨_, rfl, .fault (.reserved op)⟩
  | _ => exact parseFrame_ends _ s (.keywordLong rfl)

/-! ### Faults (R200, R201) -/

/-- R200: an instruction that answered a fault raises it, and changed nothing but the port's response. -/
theorem exec_fault {i : Instr} {s t : State} {r : Response} {f : OpFault} (h : exec i s = .next t) (hr : t.response = some r)
    (hf : r.st = .fault f) : Raises i f ∧ t = s.respond (faultResponse f) := by
  obtain ⟨u, e, hends⟩ := exec_ends i s
  cases e.symm.trans h
  cases hends with
  | done hq hdone =>
    cases hq.symm.trans hr
    cases hdone.symm.trans hf
  | fault raised =>
    cases hr
    cases hf
    exact ⟨raised, rfl⟩

/-- R130: whether a byte of a frame is kept or dropped does not depend on the port's response. -/
theorem collect_respond (s : State) (c : Byte) (r : Response) : (s.respond r).collect c = (s.collect c).respond r := by
  obtain room | full := Nat.lt_or_ge s.rxBuf.length s.config.rxCap
  · rw [collect_of_room c room, collect_of_room c (s := s.respond r) room]
    rfl
  · rw [collect_of_full c full, collect_of_full c (s := s.respond r) full]
    rfl

/-- R130: RX_PUSH reads no response, and its own replaces the earlier one. -/
theorem execRxPush_respond (c : Byte) (s : State) (r : Response) : execRxPush c (s.respond r) = execRxPush c s := by
  unfold execRxPush
  rw [collect_respond]
  rfl

/-- R28: no result register is read: every instruction runs the same whatever response stands on the port, and replaces it. -/
theorem exec_respond (i : Instr) (s : State) (r : Response) : exec i (s.respond r) = exec i s := by
  cases i with
  | rxPush c => exact execRxPush_respond c s r
  | _ => rfl

/-- Settles O47: by `exec_fault` only the port's response has changed, which by `exec_respond` no next instruction reads. -/
theorem faultsArePrecise : Obligations.FaultsArePrecise := by
  intro i s t r f h hr hf
  obtain ⟨-, rfl⟩ := exec_fault h hr hf
  exact ⟨rfl, fun j => exec_respond j s _⟩

/-- Settles O48, by the rows of `Raises`. -/
theorem faultsComeFromTheListedOperations : Obligations.FaultsComeFromTheListedOperations := by
  intro i s t r f h hr hf
  obtain ⟨raised, -⟩ := exec_fault h hr hf
  cases raised with
  | reserved op => exact ⟨op, rfl⟩
  | cmdEncodeLong a kw g => exact .inl ⟨a, kw, g, rfl⟩
  | frameParseLong text => exact .inr (.inl ⟨text, rfl⟩)
  | respFormatLong text => exact .inr (.inr (.inl ⟨text, rfl⟩))
  | respParseLong text => exact .inr (.inr (.inr (.inl ⟨text, rfl⟩)))
  | decToU16Long text => exact .inr (.inr (.inr (.inr (.inl ⟨text, rfl⟩))))
  | cfgSetAddrLong a => exact .inr (.inr (.inr (.inr (.inr (.inl ⟨a, rfl⟩)))))
  | keywordLong hkw => exact .inr (.inr (.inr (.inr (.inr (.inr ⟨_, hkw⟩)))))
  | cmdEncodeNoKeyword a g => exact ⟨a, g, rfl⟩
  | respFormatBadValue text => exact ⟨text, rfl⟩
  | respFormatBadCode e => exact ⟨e, .inl rfl⟩
  | errDescBadCode e => exact ⟨e, .inr rfl⟩
  | decToU16Unreadable text => exact ⟨text, rfl⟩
  | cfgSetAddrIllegal a => exact ⟨a, rfl⟩

/-! ### Steps (R208) -/

/-- Settles O53, by the step's three cases: the idle step, the reset input, and an instruction, which goes on by `exec_ends`. -/
theorem everyStepGoesOn : Obligations.EveryStepGoesOn := by
  intro s
  obtain ⟨-, e⟩ | ⟨_, -, e⟩ | ⟨i, rest, -, e⟩ := step_cases s
  · exact ⟨s, e⟩
  · exact ⟨_, e⟩
  · obtain ⟨t, hexec, -⟩ := exec_ends (instrOf s i) { s with inputs := rest }
    exact ⟨t, e.trans hexec⟩

end Sys2Proof.Machine
end

section
/-! PROOFS. The reset values and the reset input (R230, R231), the frames that are longer than RX_BUF or end after a change of the address
(R240, R242), and the obligations from them. -/

namespace Sys2Proof.Machine

/-! ### Reset (R230, R231) -/

/-- Settles O6, by the fields of `State.reset` and `Config.default`. -/
theorem resetLeavesTheStatedValues : Obligations.ResetLeavesTheStatedValues := ⟨rfl, rfl, rfl, rfl, rfl⟩

/-- R231: where the reset input comes next, the step is `State.applyReset`. -/
theorem step_reset {s : State} {rest : List HostInput} (hs : s.inputs = .reset :: rest) :
    step s = .next { s with inputs := rest }.applyReset := by
  rw [step, fetch, hs]

/-- Settles O7, by `step_reset`. -/
theorem resetInputRestoresTheResetState : Obligations.ResetInputRestoresTheResetState := fun _ _ hs => step_reset hs

/-! ### The end of a frame (R130, R240) -/

section
variable {s : State} {rest : List HostInput}

/-- R130: a pushed terminator that is no stripped LF empties the assembler and answers the frame's result. -/
theorem step_ending {c : Byte} {cs : Bytes} (hc : c = cr ∨ (c = lf ∧ s.rxPrevCr = false))
    (hin : s.inputs = pushes (c :: cs) ++ rest) :
    step s = .next { s with
      rxBuf := [], rxOvf := false, rxPrevCr := c == cr, inputs := pushes cs ++ rest,
      response := some (frameResponse (s.frameEnded c)) } := by
  rw [step_pushes s c cs rest hin]
  exact execRxPush_of_ending hc

/-- R191: a pushed CFG_SET_ADDR of a legal address changes the address and answers DONE. -/
theorem step_setAddr {addr : Addr} (haddr : legalAddr addr = true) (hmax : 2 ≤ s.config.operandMax)
    (hin : s.inputs = .issue (.request { op := 0xA, a := addr.bytes }) :: rest) :
    step s = .next (({ s with inputs := rest }.setAddr addr).respond { st := .done }) := by
  have hdecode : decode (.request { op := 0xA, a := addr.bytes }) = .ok (.cfgSetAddr addr.bytes) := rfl
  rw [step_of_decode hdecode hin]
  exact exec_cfgSetAddr_of_legal hmax ((legalAddress_eq_some _ _).2 ⟨rfl, haddr⟩)

end

/-- Settles O34: the first step only changes the address, and the second parses against the address it finds. -/
theorem frameIsCheckedAgainstTheAddressAtItsEnd : Obligations.FrameIsCheckedAgainstTheAddressAtItsEnd := by
  intro s x y c rest haddr hmax hovf hc hin
  rw [stepTimes_succ 1 (step_setAddr haddr hmax hin), stepTimes_succ 0 (step_ending (by exact hc) rfl),
    frameEnded_of_no_overflow c (by exact hovf), hovf]
  rfl

/-! ### A frame longer than RX_BUF (R242) -/

/-- The state once a byte of the frame has been dropped: as `State.collecting`, with RX_OVF set. -/
def State.overflowing (s : State) (buf : Bytes) (later : List HostInput) : State :=
  { s.collecting buf later with rxOvf := true }

section
variable {s : State} {rest : List HostInput}

/-- R130: a pushed byte of a frame, where there is no room. -/
theorem step_drops {c : Byte} {cs : Bytes} (hc : isTerminator c = false) (hfull : s.config.rxCap ≤ s.rxBuf.length)
    (hin : s.inputs = pushes (c :: cs) ++ rest) : step s = .next (s.overflowing s.rxBuf (pushes cs ++ rest)) := by
  rw [step_pushes s c cs rest hin]
  change execRxPush c _ = _
  rw [execRxPush_of_collected hc, collect_of_full c (by exact hfull)]
  rfl

/-- R242: once RX_BUF is full it stays as it is, whatever bytes of the frame follow. -/
theorem stepTimes_drops {p later : Bytes} (hne : p ≠ []) (hp : ∀ b ∈ p, isTerminator b = false)
    (hfull : s.config.rxCap ≤ s.rxBuf.length) (hin : s.inputs = pushes (p ++ later) ++ rest) :
    stepTimes p.length s = .next (s.overflowing s.rxBuf (pushes later ++ rest)) := by
  induction p generalizing s with
  | nil => exact absurd rfl hne
  | cons c cs ih =>
    obtain ⟨hc, hcs⟩ := List.forall_mem_cons.1 hp
    rw [List.length_cons, stepTimes_succ _ (step_drops hc hfull hin)]
    cases cs with
    | nil => rfl
    | cons d ds =>
      rw [ih (List.cons_ne_nil d ds) hcs (by exact hfull) rfl]
      rfl

/-- R242: of the bytes of a frame that does not fit, RX_BUF holds the first RX_CAP. -/
theorem stepTimes_overflows {p later : Bytes} (hp : ∀ b ∈ p, isTerminator b = false) (hbuf : s.rxBuf.length ≤ s.config.rxCap)
    (hover : s.config.rxCap < s.rxBuf.length + p.length) (hin : s.inputs = pushes (p ++ later) ++ rest) :
    stepTimes p.length s = .next (s.overflowing ((s.rxBuf ++ p).take s.config.rxCap) (pushes later ++ rest)) := by
  induction p generalizing s with
  | nil => exact absurd hover hbuf.not_gt
  | cons c cs ih =>
    obtain hroom | hfull := hbuf.lt_or_eq
    · obtain ⟨hc, hcs⟩ := List.forall_mem_cons.1 hp
      have hlen : (s.rxBuf ++ [c]).length = s.rxBuf.length + 1 := List.length_append
      have hover' : s.config.rxCap < (s.rxBuf ++ [c]).length + cs.length := by
        rw [List.length_cons] at hover
        omega
      rw [List.length_cons, stepTimes_succ _ (step_collects hc hroom hin), ih hcs (hlen.trans_le hroom) hover' rfl]
      simp [State.overflowing, State.collecting]
    · rw [stepTimes_drops (List.cons_ne_nil c cs) hp hfull.ge hin, List.take_left' hfull]

end

/-- Settles O33: the frame's bytes overflow RX_BUF, and its terminator answers the overflow. -/
theorem overlongFrameEndsAsOverflow : Obligations.OverlongFrameEndsAsOverflow := by
  intro s p c rest hbuf hovf hp hlong hc hin
  have hdropped : stepTimes p.length s = .next (s.overflowing (p.take s.config.rxCap) (pushes [c] ++ rest)) := by
    have h := stepTimes_overflows (fun b hb => (isTerminator_eq_false b).2 (hp b hb)) (by simp [hbuf]) (by simpa [hbuf]) hin
    rwa [hbuf] at h
  refine ⟨hdropped, ?_⟩
  rw [stepTimes_succ_last hdropped, step_ending (hc.imp_right fun h => ⟨h, rfl⟩) rfl, frameEnded_of_overflow c rfl]
  rfl

end Sys2Proof.Machine
end
